-- ==== Sys2Proof/Word.lean ====
section
/-! DEFINITION. The word types of the engine: 32-bit bus and command words, 128-bit registers, bytes
(00_scope.md R7, R9). Values are unsigned; a value is cut to a register's width only where a rule says so. -/

namespace Sys2Proof

/-- A 32-bit word of the host data bus; a command is one such word (30_encoding.md R100). -/
abbrev Word := BitVec 32

/-- The contents of a value register, a fingerprint register, a base, a max_exp or a table entry
(00_scope.md R7, R12). -/
abbrev Val := BitVec 128

/-- A byte operand of a roll or a lookup (30_encoding.md R104, R107, R108). -/
abbrev Byte := BitVec 8

/-- A word the entropy source offers at rng_data (20_memory.md R60, R72). -/
abbrev EntropyWord := BitVec 128

end Sys2Proof
end

