-- ==== Sys2Proof/Config.lean ====
section
/-! DEFINITION. What is fixed outside the engine: the two open parameters of the platform
(92_eei_decisions.md D49) and the free values. None has a body, so no proof can learn a value. -/

namespace Sys2Proof

/-- `ENGINE_BASE`: where the platform places the 1 KiB window (20_memory.md R66, D49). Log entry 10. -/
opaque Config.engineBase : Nat

/-- `ENGINE_IRQ`: the line by which `irq` reaches a processor (60_exceptions.md R237, D49). Log entry 10. -/
opaque Config.engineIrq : Nat

/-- FREE VALUE. What the entropy source gives the n-th time the model asks it for a value it has not been
told of (20_memory.md R72: "any value in [1, p - 1], under no further law"); `State.drawNonzero` brings it
into the range. Each n is used once, so two draws are related by nothing. Log entry 4. -/
opaque Config.freeDraw : Nat → BitVec 128

/-- FREE VALUE. What a table entry without defined contents would read as (20_memory.md R62: such entries
"hold no defined value; no command can read them"). Log entry 5. -/
opaque Config.undefinedEntry : Nat → Byte → Byte → Val

end Sys2Proof
end

