-- ==== Sys2Proof/Syntax.lean ====
section
/-! DEFINITION. The commands of the engine as syntax: one constructor of `Instr` for each row of
spec/opcode_table.json, with its operand fields (30_encoding.md R101 to R109). -/

namespace Sys2Proof

/-- The number of a value register X0 to X15 (10_state.md R23). -/
abbrev Reg := Fin 16

/-- The number of a channel, 0 to 3 (30_encoding.md R104). -/
abbrev Chan := Fin 4

/-- A field width s; the arithmetic width selector `sw` names one of these four (30_encoding.md R105). -/
inductive Width where
  | w61
  | w89
  | w107
  | w127
  deriving DecidableEq, Repr

/-- A legal configuration width (30_encoding.md R106, codes 0 to 6). -/
inductive WSel where
  | w61
  | w89
  | w107
  | w127
  | w122
  | w183
  | w244
  deriving DecidableEq, Repr

/-- The error codes of STATUS.ERRCODE (60_exceptions.md R231); codes 9 to 15 are never written. -/
inductive ErrCode where
  | noError
  | illegalOpcode
  | illegalField
  | badWidth
  | notConfigured
  | badWindow
  | badBase
  | operandRange
  | modeMismatch
  deriving DecidableEq, Repr

/-- A command with a legal opcode. The `wsel` field of CONFIG is an `Option`: `none` is the reserved
code 7, a legal encoding that raises BAD_WIDTH (30_encoding.md R106, R111). -/
inductive Instr where
  /-- NOP, R116. -/
  | nop
  /-- REDUCE.sw rd, rs1, R142. -/
  | reduce (rd rs1 : Reg) (sw : Width)
  /-- MULADD.sw rd, rs1, rs2, rs3, R144. -/
  | muladd (rd rs1 rs2 rs3 : Reg) (sw : Width)
  /-- MULADDR.sw rd, rs1, rs2, rs3, R145. -/
  | muladdr (rd rs1 rs2 rs3 : Reg) (sw : Width)
  /-- POW.sw rd, rs1, rs2, R148. -/
  | pow (rd rs1 rs2 : Reg) (sw : Width)
  /-- INV.sw rd, rs1, R149. -/
  | inv (rd rs1 : Reg) (sw : Width)
  /-- RAND.sw rd, R150. -/
  | rand (rd : Reg) (sw : Width)
  /-- CONFIG.wsel rt, rb (E = 1), R170. -/
  | config (rt rb : Reg) (wsel : Option WSel)
  /-- CONFIG.wsel rt, RANDOM (E = 0), R170. -/
  | configRandom (rt : Reg) (wsel : Option WSel)
  /-- LOOKUP rd, Cch, a, b, R174. -/
  | lookup (rd : Reg) (ch : Chan) (a b : Byte)
  /-- FILL b, R191. -/
  | fill (b : Byte)
  /-- SLIDE a, b, R193. -/
  | slide (a b : Byte)
  /-- FPCLR, R210. -/
  | fpclr
  /-- FPGET rd, R211. -/
  | fpget (rd : Reg)
  /-- FPPUT rs1, R212. -/
  | fpput (rs1 : Reg)
  /-- CMP rd, rs1, rs2, R213. -/
  | cmp (rd rs1 rs2 : Reg)
  /-- PACK2 rd, R216. -/
  | pack2 (rd : Reg)
  deriving DecidableEq, Repr

end Sys2Proof
end

