-- ==== Sys2Proof/WellFormed.lean ====
section
/-! DEFINITION. Which commands have an encoding: the register-pair fields are even (30_encoding.md R112).
Every other bound of a field is in the field's type. -/

namespace Sys2Proof

/-- A pair field must name an even register (10_state.md R24, 30_encoding.md R112). -/
def Reg.isEven (r : Reg) : Bool := r.val % 2 == 0

/-- The command is one the encoding of 30_encoding.md R111 can express. -/
def Instr.wf : Instr → Bool
  | .nop => true
  | .reduce _ rs1 _ => Reg.isEven rs1
  | .muladd rd _ _ _ _ => Reg.isEven rd
  | .muladdr _ _ _ _ _ => true
  | .pow _ _ _ _ => true
  | .inv _ _ _ => true
  | .rand _ _ => true
  | .config _ _ _ => true
  | .configRandom _ _ => true
  | .lookup _ _ _ _ => true
  | .fill _ => true
  | .slide _ _ => true
  | .fpclr => true
  | .fpget _ => true
  | .fpput _ => true
  | .cmp _ _ _ => true
  | .pack2 _ => true

end Sys2Proof
end

