-- ==== Sys2Proof/Decode.lean ====
section
/-! DEFINITION. The decoder of command words (30_encoding.md R110 to R113), total on any word and rejecting
by error code, and after it the encoder written from the formats (R101 to R107). -/

namespace Sys2Proof

/-! ## The opcode map -/

/-- The assigned opcodes (30_encoding.md R109). -/
inductive Op where
  | nop | reduce | muladd | muladdr | pow | inv | rand | config | lookup | fill | slide
  | fpclr | fpget | fpput | cmp | pack2
  deriving DecidableEq, Repr

/-- The opcode byte, bits [31:24] of a command word (R109). -/
def Op.byte : Op → BitVec 8
  | .nop => 0x00
  | .reduce => 0x01
  | .muladd => 0x02
  | .muladdr => 0x03
  | .pow => 0x04
  | .inv => 0x05
  | .rand => 0x06
  | .config => 0x10
  | .lookup => 0x11
  | .fill => 0x20
  | .slide => 0x21
  | .fpclr => 0x30
  | .fpget => 0x31
  | .fpput => 0x32
  | .cmp => 0x33
  | .pack2 => 0x34

/-- Every assigned opcode once (R109). -/
def Op.all : List Op :=
  [.nop, .reduce, .muladd, .muladdr, .pow, .inv, .rand, .config, .lookup, .fill, .slide,
   .fpclr, .fpget, .fpput, .cmp, .pack2]

/-- The opcode with a given byte; `none` where the byte is reserved (R110). -/
def Op.ofByte (b : BitVec 8) : Option Op := Op.all.find? fun o => o.byte == b

/-- The mask of fixed bits of an opcode's row (R111); CONFIG has a row for E = 1 and one for E = 0. -/
def Op.mask (e : Bool) : Op → Word
  | .nop => 0xFFFFFFFF
  | .reduce => 0xFF01FFFC
  | .muladd => 0xFF1000FC
  | .muladdr => 0xFF0000FC
  | .pow => 0xFF000FFC
  | .inv => 0xFF00FFFC
  | .rand => 0xFF0FFFFC
  | .config => if e then 0xFF00F8FF else 0xFF0FF8FF
  | .lookup => 0xFF030000
  | .fill => 0xFFFFFF00
  | .slide => 0xFFFF0000
  | .fpclr => 0xFFFFFFFF
  | .fpget => 0xFF0FFFFF
  | .fpput => 0xFFF0FFFF
  | .cmp => 0xFF000FFF
  | .pack2 => 0xFF0FFFFF

/-- The value of the fixed bits of an opcode's row (R111). -/
def Op.pattern (e : Bool) : Op → Word
  | .nop => 0x00000000
  | .reduce => 0x01000000
  | .muladd => 0x02000000
  | .muladdr => 0x03000000
  | .pow => 0x04000000
  | .inv => 0x05000000
  | .rand => 0x06000000
  | .config => if e then 0x10000800 else 0x10000000
  | .lookup => 0x11000000
  | .fill => 0x20000000
  | .slide => 0x21000000
  | .fpclr => 0x30000000
  | .fpget => 0x31000000
  | .fpput => 0x32000000
  | .cmp => 0x33000000
  | .pack2 => 0x34000000

/-! ## Fields -/

/-- The 4-bit register number whose lowest bit is bit `lo` of the word (R102, R103, R104, R113). -/
def regField (lo : Nat) (w : Word) : Reg :=
  ⟨(w.extractLsb' lo 4).toNat, (w.extractLsb' lo 4).isLt⟩

/-- The channel number, bits [19:18] (R104). -/
def chanField (w : Word) : Chan :=
  ⟨(w.extractLsb' 18 2).toNat, (w.extractLsb' 18 2).isLt⟩

/-- The width an `sw` code selects; every code is legal (R105). -/
def Width.ofCode (c : BitVec 2) : Width :=
  if c = 0 then .w61 else if c = 1 then .w89 else if c = 2 then .w107 else .w127

/-- The `sw` code of a width (R105). -/
def Width.code : Width → BitVec 2
  | .w61 => 0
  | .w89 => 1
  | .w107 => 2
  | .w127 => 3

/-- The configuration width a `wsel` code selects; `none` for the reserved code 7 (R106). -/
def WSel.ofCode (c : BitVec 3) : Option WSel :=
  if c = 0 then some .w61
  else if c = 1 then some .w89
  else if c = 2 then some .w107
  else if c = 3 then some .w127
  else if c = 4 then some .w122
  else if c = 5 then some .w183
  else if c = 6 then some .w244
  else none

/-- The code of a configuration width, also the 3 bits of CFG_WSEL (R106). -/
def WSel.code : WSel → BitVec 3
  | .w61 => 0
  | .w89 => 1
  | .w107 => 2
  | .w127 => 3
  | .w122 => 4
  | .w183 => 5
  | .w244 => 6

/-- The code of CONFIG's width field, 7 for the reserved one (R106). -/
def WSel.fieldCode : Option WSel → BitVec 3
  | some w => w.code
  | none => 7

/-! ## The decoder -/

/-- The command a word with this opcode holds, every field in its place (R113). -/
def Op.instr (w : Word) : Op → Instr
  | .nop => .nop
  | .reduce => .reduce (regField 20 w) (regField 16 w) (Width.ofCode (w.extractLsb' 0 2))
  | .muladd =>
    .muladd (regField 20 w) (regField 16 w) (regField 12 w) (regField 8 w) (Width.ofCode (w.extractLsb' 0 2))
  | .muladdr =>
    .muladdr (regField 20 w) (regField 16 w) (regField 12 w) (regField 8 w) (Width.ofCode (w.extractLsb' 0 2))
  | .pow => .pow (regField 20 w) (regField 16 w) (regField 12 w) (Width.ofCode (w.extractLsb' 0 2))
  | .inv => .inv (regField 20 w) (regField 16 w) (Width.ofCode (w.extractLsb' 0 2))
  | .rand => .rand (regField 20 w) (Width.ofCode (w.extractLsb' 0 2))
  | .config =>
    if w.getLsbD 11 then .config (regField 20 w) (regField 16 w) (WSel.ofCode (w.extractLsb' 8 3))
    else .configRandom (regField 20 w) (WSel.ofCode (w.extractLsb' 8 3))
  | .lookup => .lookup (regField 20 w) (chanField w) (w.extractLsb' 8 8) (w.extractLsb' 0 8)
  | .fill => .fill (w.extractLsb' 0 8)
  | .slide => .slide (w.extractLsb' 8 8) (w.extractLsb' 0 8)
  | .fpclr => .fpclr
  | .fpget => .fpget (regField 20 w)
  | .fpput => .fpput (regField 16 w)
  | .cmp => .cmp (regField 20 w) (regField 16 w) (regField 12 w)
  | .pack2 => .pack2 (regField 20 w)

/-- Decoding (R113): the opcode first, then the fixed bits of its row, then the fields. It reads nothing
but the word; the error is ILLEGAL_OPCODE or ILLEGAL_FIELD. -/
def decode (w : Word) : Except ErrCode Instr :=
  match Op.ofByte (w.extractLsb' 24 8) with
  | none => .error .illegalOpcode
  | some op =>
    if w &&& op.mask (w.getLsbD 11) = op.pattern (w.getLsbD 11) then .ok (op.instr w)
    else .error .illegalField

/-- The host's reading of the decoder: the instruction in the word with bits `w`, where it is one. Every
command is one 32-bit word (R100), so no row is shorter and bits above bit 31 belong to no command. -/
def decodeTableWord (_nbits w : Nat) : Option Instr :=
  if w < 2 ^ 32 then (decode (BitVec.ofNat 32 w)).toOption else none

/-! ## The encoder -/

/-- A register number as the 4 bits of a field. -/
def regBits (r : Reg) : BitVec 4 := BitVec.ofNat 4 r.val

/-- Format N (R101). -/
def formatN (op : BitVec 8) : Word := op ++ 0#24

/-- Format R (R102). -/
def formatR (op : BitVec 8) (rd rs1 rs2 rs3 : BitVec 4) (sw : BitVec 2) : Word :=
  op ++ rd ++ rs1 ++ rs2 ++ rs3 ++ 0#6 ++ sw

/-- Format C (R103). -/
def formatC (op : BitVec 8) (rt rb : BitVec 4) (e : BitVec 1) (wsel : BitVec 3) : Word :=
  op ++ rt ++ rb ++ 0#4 ++ e ++ wsel ++ 0#8

/-- Format L (R104). -/
def formatL (op : BitVec 8) (rd : BitVec 4) (ch : BitVec 2) (a b : Byte) : Word :=
  op ++ rd ++ ch ++ 0#2 ++ a ++ b

/-- Format B (R107). -/
def formatB (op : BitVec 8) (a b : Byte) : Word := op ++ 0#8 ++ a ++ b

/-- The command word of a command (R117): its opcode, its fields, and 0 in every field it does not use. -/
def encode : Instr → Word
  | .nop => formatN 0x00
  | .reduce rd rs1 sw => formatR 0x01 (regBits rd) (regBits rs1) 0 0 sw.code
  | .muladd rd rs1 rs2 rs3 sw =>
    formatR 0x02 (regBits rd) (regBits rs1) (regBits rs2) (regBits rs3) sw.code
  | .muladdr rd rs1 rs2 rs3 sw =>
    formatR 0x03 (regBits rd) (regBits rs1) (regBits rs2) (regBits rs3) sw.code
  | .pow rd rs1 rs2 sw => formatR 0x04 (regBits rd) (regBits rs1) (regBits rs2) 0 sw.code
  | .inv rd rs1 sw => formatR 0x05 (regBits rd) (regBits rs1) 0 0 sw.code
  | .rand rd sw => formatR 0x06 (regBits rd) 0 0 0 sw.code
  | .config rt rb wsel => formatC 0x10 (regBits rt) (regBits rb) 1 (WSel.fieldCode wsel)
  | .configRandom rt wsel => formatC 0x10 (regBits rt) 0 0 (WSel.fieldCode wsel)
  | .lookup rd ch a b => formatL 0x11 (regBits rd) (BitVec.ofNat 2 ch.val) a b
  | .fill b => formatB 0x20 0 b
  | .slide a b => formatB 0x21 a b
  | .fpclr => formatN 0x30
  | .fpget rd => formatR 0x31 (regBits rd) 0 0 0 0
  | .fpput rs1 => formatR 0x32 0 (regBits rs1) 0 0 0
  | .cmp rd rs1 rs2 => formatR 0x33 (regBits rd) (regBits rs1) (regBits rs2) 0 0
  | .pack2 rd => formatR 0x34 (regBits rd) 0 0 0 0

end Sys2Proof
end

