-- ==== Sys2Proof/Machine/State.lean ====
section
/-! DEFINITION. The state of the engine (10_state.md R20, whose list is complete) as plain data, the agents
outside it as plain data beside it, the reasons a step could stop, and the reset state (70_reset_and_hazards.md R261). -/

namespace Sys2Proof.Machine

/-- What makes the machine stop with a fault. The spec names no such thing: every command word, every host
access and every reset has an effect (30_encoding.md R115, 60_exceptions.md R230, 20_memory.md R63), an
error included, so the type has no constructor. -/
inductive Fault where
  deriving DecidableEq, Repr

/-- Why an instruction has no meaning. -/
inductive Refusal where
  /-- An arm of `exec` whose instruction has no meaning yet would answer this; no arm does. Safe. -/
  | notModelled (mnemonic : String)
  deriving DecidableEq, Repr

/-- One access of the host port (20_memory.md R60): h_write, h_addr, h_size, h_wdata. -/
structure Access where
  write : Bool
  addr : BitVec 10
  size : BitVec 2
  wdata : Word
  deriving DecidableEq, Repr

/-- What the host port answers when an access completes (20_memory.md R60, R63): h_rdata for a read,
h_err. The spec gives h_rdata no meaning on a write, so a write has no read data (log entry 6). -/
structure Response where
  rdata : Option Word
  busError : Bool
  deriving DecidableEq, Repr

/-- One event of the total order of 20_memory.md R74 and 60_exceptions.md R238. -/
inductive Event where
  /-- The host port completes this access next. -/
  | access (a : Access)
  /-- The busy command ends now (nothing happens if there is none). -/
  | complete
  /-- A moment at which rst_n is 0 (70_reset_and_hazards.md R260). -/
  | resetLow
  deriving DecidableEq, Repr

/-- The configuration state (10_state.md R28). A table is held as its 256 row heads T[c][a][0]
(41_table.md R173, log entry 5); `none` is a table without defined contents (20_memory.md R62). -/
structure Configuration where
  /-- CFG_VALID. -/
  valid : Bool
  /-- CFG_WSEL. -/
  wsel : WSel
  /-- CFG_TAU. -/
  tau : BitVec 64
  /-- CFG_BASE[0..3]. -/
  base : Vector Val 4
  /-- CFG_MAXEXP[0..3]. -/
  maxExp : Vector Val 4
  /-- T[0..3]. -/
  table : Vector (Option (Vector Val 256)) 4
  deriving DecidableEq, Repr

/-- The configuration state after reset (R28, R261). -/
def Configuration.reset : Configuration where
  valid := false
  wsel := .w61
  tau := 0
  base := Vector.replicate 4 0
  maxExp := Vector.replicate 4 0
  table := Vector.replicate 4 none

/-- The state. The fields down to `errCmd` are the engine's (10_state.md R20); the last four are the agents
around it (00_scope.md R14), the model's own. -/
structure State where
  /-- X[0..15], R23. -/
  x : Vector Val 16
  /-- FP[0..3], R26. -/
  fp : Vector Val 4
  /-- The configuration state, R28. -/
  cfg : Configuration
  /-- CTRL.ERR_IE, R32. -/
  errIe : Bool
  /-- CTRL.DONE_IE, R32. -/
  doneIe : Bool
  /-- The busy command, R22; STATUS.BUSY is 1 exactly while there is one (R34). -/
  busy : Option Word
  /-- STATUS.ERR, R36. -/
  err : Bool
  /-- STATUS.ERRCODE, R36. -/
  errCode : ErrCode
  /-- STATUS.DONE, R37. -/
  done : Bool
  /-- LASTCMD, R39. -/
  lastCmd : Word
  /-- ERRCMD, R40. -/
  errCmd : Word
  /-- The events that lie ahead, the next one first (20_memory.md R74). Log entry 1. -/
  agenda : List Event
  /-- What the host port answered to the access it completed last. Log entry 6. -/
  response : Option Response
  /-- The words the entropy source has offered and the engine has not taken (20_memory.md R72). Log entry 3. -/
  rng : List EntropyWord
  /-- How many values of `Config.freeDraw` have been used. Log entry 4. -/
  draws : Nat
  deriving DecidableEq, Repr

/-- The machine right after reset (R261), with nothing ahead of it. -/
def State.reset : State where
  x := Vector.replicate 16 0
  fp := Vector.replicate 4 0
  cfg := Configuration.reset
  errIe := false
  doneIe := false
  busy := none
  err := false
  errCode := .noError
  done := false
  lastCmd := 0
  errCmd := 0
  agenda := []
  response := none
  rng := []
  draws := 0

end Sys2Proof.Machine
end

