-- ==== Sys2Proof/Machine/Operands.lean ====
section
/-! DEFINITION. Operands: widths and moduli (00_scope.md R8, R11), registers, pairs and tuples
(10_state.md R23 to R26), channels, and the modular power every exponentiation uses (40_arith.md R148). -/

namespace Sys2Proof

/-- s, the number of bits of a field width (30_encoding.md R105). -/
def Width.bits : Width → Nat
  | .w61 => 61
  | .w89 => 89
  | .w107 => 107
  | .w127 => 127

/-- p = 2^s - 1 (00_scope.md R2, R8). -/
def Width.modulus (w : Width) : Nat := 2 ^ w.bits - 1

/-- s as a field width; the composite widths use 61 (30_encoding.md R106). -/
def WSel.width : WSel → Width
  | .w61 => .w61
  | .w89 => .w89
  | .w107 => .w107
  | .w127 => .w127
  | .w122 => .w61
  | .w183 => .w61
  | .w244 => .w61

/-- k, the number of channels (30_encoding.md R106). -/
def WSel.channels : WSel → Nat
  | .w61 => 1
  | .w89 => 1
  | .w107 => 1
  | .w127 => 1
  | .w122 => 2
  | .w183 => 3
  | .w244 => 4

/-- p of a configuration width (00_scope.md R11). -/
def WSel.modulus (w : WSel) : Nat := w.width.modulus

namespace Machine

/-! ## Registers -/

/-- X[n] (00_scope.md R10). Every use has n < 16; beyond, there is no register and the value is 0. -/
def State.getX (s : State) (n : Nat) : Val := s.x[n]?.getD 0

/-- X[n] <- v (R10); beyond X15 there is nothing to write. -/
def State.setX (n : Nat) (v : Val) (s : State) : State := { s with x := s.x.setIfInBounds n v }

/-- FP[c] (R10). Every use has c < 4. -/
def State.getFp (s : State) (c : Nat) : Val := s.fp[c]?.getD 0

/-- FP[0..3] <- the values of a vector. -/
def State.setFps (v : Vector Val 4) (s : State) : State := { s with fp := v }

/-- PAIR(n), the 256-bit value {X[n+1], X[n]} (R10, 10_state.md R24). -/
def State.getPair (s : State) (n : Nat) : BitVec 256 := s.getX (n + 1) ++ s.getX n

/-- PAIR(n) <- v: X[n] <- v[127:0], X[n+1] <- v[255:128] (R10). -/
def State.setPair (n : Nat) (v : BitVec 256) (s : State) : State :=
  (s.setX n (v.extractLsb' 0 128)).setX (n + 1) (v.extractLsb' 128 128)

/-- The register tuple of length k at register n (10_state.md R25). -/
def State.getTuple (s : State) (n k : Nat) : List Val := (List.range k).map fun c => s.getX (n + c)

/-- X[n], X[n+1], ... <- the values of a tuple. -/
def State.setTuple (n : Nat) : List Val → State → State
  | [], s => s
  | v :: vs, s => State.setTuple (n + 1) vs (s.setX n v)

/-- A tuple of length k at register n does not end at X15 or below (R25: i + k - 1 ≤ 15). -/
def tuplePastEnd (n k : Nat) : Bool := 15 < n + k - 1

/-! ## Channels -/

/-- A value for each of the four channels. -/
def perChannel {α : Type} (f : Nat → α) : Vector α 4 := #v[f 0, f 1, f 2, f 3]

/-- CFG_BASE[c]. -/
def State.base (s : State) (c : Nat) : Val := s.cfg.base[c]?.getD 0

/-- CFG_MAXEXP[c]. -/
def State.maxExp (s : State) (c : Nat) : Val := s.cfg.maxExp[c]?.getD 0

/-- P, derived from CFG_WSEL (10_state.md R29). -/
def State.modulus (s : State) : Nat := s.cfg.wsel.modulus

/-- K, derived from CFG_WSEL (R29). -/
def State.channels (s : State) : Nat := s.cfg.wsel.channels

/-! ## Values -/

/-- A natural number as a register value; every use has it below 2^128 (R9, 40_arith.md R151). -/
def toVal (n : Nat) : Val := BitVec.ofNat 128 n

/-- One more factor in repeated squaring: h² or h²·x, reduced (40_arith.md R148). -/
def squareStep (p x h : Nat) (odd : Bool) : Nat := if odd then h * h % p * x % p else h * h % p

/-- x^e mod p by repeated squaring over the low `n` bits of e (R148: "modular exponentiation by repeated
squaring"); it starts from 1, so x^0 = 1. Log entry 9. -/
def powBits (p x : Nat) : Nat → Nat → Nat
  | 0, _ => 1 % p
  | n + 1, e => squareStep p x (powBits p x n (e / 2)) (e % 2 == 1)

/-- x^e mod p for an exponent of up to 128 bits (00_scope.md R7: POW exponent width). -/
def powMod (p x e : Nat) : Nat := powBits p x 128 e

/-- One fold of Mersenne reduction (00_scope.md R13): v[s-1:0] + (v >> s). -/
def fold (s v : Nat) : Nat := v % 2 ^ s + v / 2 ^ s

/-- The folding reduction of 40_arith.md R143: two folds and one correction. Not architectural; the
model's REDUCE computes the residue, and a statement says the two agree. -/
def foldReduce (w : Width) (v : Nat) : Nat :=
  if fold w.bits (fold w.bits v) = w.modulus then 0 else fold w.bits (fold w.bits v)

end Machine
end Sys2Proof
end

