-- ==== Sys2Proof/Machine/Flags.lean ====
section
/-! DEFINITION. The status bits: the engine has no condition codes (10_state.md R47); its only status bits are
those of STATUS (R33), with CTRL's enables (R32) and the interrupt level (60_exceptions.md R237). -/

namespace Sys2Proof

/-- The number of an error code (60_exceptions.md R231). -/
def ErrCode.code : ErrCode → BitVec 4
  | .noError => 0
  | .illegalOpcode => 1
  | .illegalField => 2
  | .badWidth => 3
  | .notConfigured => 4
  | .badWindow => 5
  | .badBase => 6
  | .operandRange => 7
  | .modeMismatch => 8

namespace Machine

/-- STATUS.BUSY: 1 exactly while the engine holds a busy command (10_state.md R34). -/
def State.busyBit (s : State) : Bool := s.busy.isSome

/-- The STATUS register as the host reads it (R33). -/
def State.statusWord (s : State) : Word :=
  0#20 ++ s.errCode.code ++ 0#4 ++ BitVec.ofBool s.done ++ BitVec.ofBool s.err
    ++ BitVec.ofBool s.cfg.valid ++ BitVec.ofBool s.busyBit

/-- The CTRL register as the host reads it (R32); SRST reads 0. -/
def State.ctrlWord (s : State) : Word :=
  0#29 ++ BitVec.ofBool s.doneIe ++ BitVec.ofBool s.errIe ++ 0#1

/-- The interrupt output (R49, 60_exceptions.md R237). -/
def State.irq (s : State) : Bool := (s.err && s.errIe) || (s.done && s.doneIe)

/-- The host's acknowledgement of a completion: STATUS bit 3 written 1 (R33). -/
def State.clearDone (s : State) : State := { s with done := false }

end Machine
end Sys2Proof
end

