-- ==== Sys2Proof/Machine/Ops.lean ====
section
/-! DEFINITION. The shared operations: ending in error and the way back from it, completing, running a command
behind its checks (60_exceptions.md R232, R233, R235, R236), reset (70_reset_and_hazards.md R260, R261), the
entropy source (20_memory.md R72), and the tables (41_table.md R172, R173). -/

namespace Sys2Proof.Machine

/-! ## How a command ends -/

/-- A command ends in error (60_exceptions.md R233): the engine's whole exception mechanism (R230). The
error record is written, the engine becomes idle, nothing else changes. -/
def State.raiseError (w : Word) (e : ErrCode) (s : State) : State :=
  { s with err := true, errCode := e, errCmd := w, busy := none }

/-- The way back from an error (R235): the host clears the record; ERRCMD keeps its word. -/
def State.clearError (s : State) : State := { s with err := false, errCode := .noError }

/-- A command completes without error (R236). -/
def State.complete (w : Word) (s : State) : State :=
  { s with done := true, lastCmd := w, busy := none }

/-- A check of a command: it fails if the condition holds, and gives this code. -/
abbrev Check := Bool × ErrCode

/-- The code of the first check that fails (R232). -/
def firstError : List Check → Option ErrCode
  | [] => none
  | (failed, e) :: rest => if failed then some e else firstError rest

/-- One command: its checks in the order of R232, then its writes and the completion record in one step.
Every check reads the state before the command. Log entry 8. -/
def runCommand (w : Word) (checks : List Check) (effect : State → State) (s : State) :
    Host.Outcome State Fault Refusal :=
  match firstError checks with
  | some e => .next (s.raiseError w e)
  | none => .next ((effect s).complete w)

/-! ## Reset -/

/-- Both resets (R260, R261): every piece of the engine's state takes its reset value; the agents outside
it are not the engine's and go on as they were. Log entries 1, 3, 4, 6. -/
def State.resetEngine (s : State) : State :=
  { State.reset with agenda := s.agenda, response := s.response, rng := s.rng, draws := s.draws }

/-! ## The entropy source -/

/-- Rejection sampling over the offered words (20_memory.md R72): the first candidate v = w[s-1:0] with
1 ≤ v ≤ p - 1, and the words left after it. -/
def acceptWord (w : Width) : List EntropyWord → Option (Nat × List EntropyWord)
  | [] => none
  | e :: es =>
    if 1 ≤ e.toNat % 2 ^ w.bits ∧ e.toNat % 2 ^ w.bits ≤ w.modulus - 1 then
      some (e.toNat % 2 ^ w.bits, es)
    else acceptWord w es

/-- The entropy source has given words: these are left, and this many free values were used. -/
def State.takeWords (rest : List EntropyWord) (used : Nat) (s : State) : State :=
  { s with rng := rest, draws := s.draws + used }

/-- draw_nonzero(p) (00_scope.md R10, 20_memory.md R72): the first acceptable word on offer; where the
words on offer hold none, the source goes on to offer words the model has not been told, and the accepted
value is a free value in [1, p - 1]. Log entries 3, 4, 12. -/
def State.drawNonzero (w : Width) (s : State) : Nat × State :=
  match acceptWord w s.rng with
  | some (v, rest) => (v, s.takeWords rest 0)
  | none => (1 + (Config.freeDraw s.draws).toNat % (w.modulus - 1), s.takeWords [] 1)

/-- k draws, one after the other (41_table.md R177). -/
def State.drawMany (w : Width) : Nat → State → List Nat × State
  | 0, s => ([], s)
  | k + 1, s =>
    let first := s.drawNonzero w
    let rest := first.2.drawMany w k
    (first.1 :: rest.1, rest.2)

/-! ## The configuration and its tables -/

/-- The commit of a CONFIG: the whole configuration state at once (10_state.md R28, 41_table.md R171). -/
def State.commit (c : Configuration) (s : State) : State := { s with cfg := c }

/-- The row heads T[c][a][0] = (P - (a · max_exp mod P)) mod P of one channel (41_table.md R172, R173). -/
def buildTable (p maxExp : Nat) : Vector Val 256 :=
  ⟨⟨(List.range 256).map fun a => toVal ((p - a * maxExp % p) % p)⟩, by simp⟩

/-- T[c][a][b] of a channel with these row heads: b added to the head, mod P (R173). -/
def tableValue (p : Nat) (heads : Vector Val 256) (a b : Byte) : Val :=
  toVal (((heads[a.toNat]'a.isLt).toNat + b.toNat) % p)

/-- T[c][a][b] (00_scope.md R10). An entry without defined contents has no stated value, and no command
reads one in a state the engine can reach (20_memory.md R62); the model gives a free value. Log entry 5. -/
def State.entry (s : State) (c : Nat) (a b : Byte) : Val :=
  match s.cfg.table[c]?.getD none with
  | some heads => tableValue s.modulus heads a b
  | none => Config.undefinedEntry c a b

end Sys2Proof.Machine
end

