-- ==== Sys2Proof/Machine/Arith.lean ====
section
/-! DEFINITION. NOP (30_encoding.md R116) and the commands of the arithmetic unit (40_arith.md R140 to R152).
Each reads its sources from the state before the command (R152) and no configuration state (R140). -/

namespace Sys2Proof.Machine

/-- A field operand that is not a field element (R141): it raises OPERAND_RANGE. -/
def outOfField (w : Width) (v : Val) : Bool := w.modulus ≤ v.toNat

/-- NOP (30_encoding.md R116): no effect but the completion record. -/
def execNop (s : State) : Host.Outcome State Fault Refusal := runCommand (encode .nop) [] id s

/-- REDUCE (R142): X[rd] <- PAIR(rs1) mod p, for a pair below p². -/
def execReduce (rd rs1 : Reg) (sw : Width) (s : State) : Host.Outcome State Fault Refusal :=
  runCommand (encode (.reduce rd rs1 sw))
    [(!Reg.isEven rs1, .illegalField),
     (sw.modulus * sw.modulus ≤ (s.getPair rs1).toNat, .operandRange)]
    (State.setX rd (toVal ((s.getPair rs1).toNat % sw.modulus))) s

/-- The range check of the two multiply commands (R144, R145): a, b and c are field operands. -/
def multiplyRange (sw : Width) (rs1 rs2 rs3 : Reg) (s : State) : Check :=
  (outOfField sw (s.getX rs1) || outOfField sw (s.getX rs2) || outOfField sw (s.getX rs3), .operandRange)

/-- a·b + c, exact (R144). -/
def multiplyAdd (rs1 rs2 rs3 : Reg) (s : State) : Nat :=
  (s.getX rs1).toNat * (s.getX rs2).toNat + (s.getX rs3).toNat

/-- MULADD (R144): PAIR(rd) <- a·b + c. -/
def execMuladd (rd rs1 rs2 rs3 : Reg) (sw : Width) (s : State) : Host.Outcome State Fault Refusal :=
  runCommand (encode (.muladd rd rs1 rs2 rs3 sw))
    [(!Reg.isEven rd, .illegalField), multiplyRange sw rs1 rs2 rs3 s]
    (State.setPair rd (BitVec.ofNat 256 (multiplyAdd rs1 rs2 rs3 s))) s

/-- MULADDR (R145): X[rd] <- (a·b + c) mod p. -/
def execMuladdr (rd rs1 rs2 rs3 : Reg) (sw : Width) (s : State) : Host.Outcome State Fault Refusal :=
  runCommand (encode (.muladdr rd rs1 rs2 rs3 sw)) [multiplyRange sw rs1 rs2 rs3 s]
    (State.setX rd (toVal (multiplyAdd rs1 rs2 rs3 s % sw.modulus))) s

/-- POW (R148): X[rd] <- x^e mod p; e is the whole register and is never checked. -/
def execPow (rd rs1 rs2 : Reg) (sw : Width) (s : State) : Host.Outcome State Fault Refusal :=
  runCommand (encode (.pow rd rs1 rs2 sw)) [(outOfField sw (s.getX rs1), .operandRange)]
    (State.setX rd (toVal (powMod sw.modulus (s.getX rs1).toNat (s.getX rs2).toNat))) s

/-- INV (R149): X[rd] <- x^(p-2) mod p, which is 0 for x = 0. -/
def execInv (rd rs1 : Reg) (sw : Width) (s : State) : Host.Outcome State Fault Refusal :=
  runCommand (encode (.inv rd rs1 sw)) [(outOfField sw (s.getX rs1), .operandRange)]
    (State.setX rd (toVal (powMod sw.modulus (s.getX rs1).toNat (sw.modulus - 2)))) s

/-- X[rd] <- a drawn value (R150). -/
def drawInto (rd : Reg) (sw : Width) (s : State) : State :=
  (s.drawNonzero sw).2.setX rd (toVal (s.drawNonzero sw).1)

/-- RAND (R150): X[rd] <- draw_nonzero(p). -/
def execRand (rd : Reg) (sw : Width) (s : State) : Host.Outcome State Fault Refusal :=
  runCommand (encode (.rand rd sw)) [] (drawInto rd sw) s

end Sys2Proof.Machine
end

