-- ==== Sys2Proof/Machine/Roll.lean ====
section
/-! DEFINITION. The commands of the roll unit: FILL and SLIDE (42_roll.md R190 to R193). -/

namespace Sys2Proof.Machine

/-- FP[c] is not a field element of the configured field (R190). -/
def fpOutOfField (s : State) (c : Nat) : Bool := s.modulus ≤ (s.getFp c).toNat

/-- The checks of a roll command (R190): every channel is checked before any is written. -/
def rollChecks (s : State) : List Check :=
  [(!s.cfg.valid, .notConfigured), ((List.range s.channels).any (fpOutOfField s), .operandRange)]

/-- FP[c] <- (CFG_BASE[c] · FP[c] + addend c) mod P for every configured channel; FP[K..3] unchanged
(R191, R193). -/
def rollBy (addend : Nat → Nat) (s : State) : State :=
  s.setFps (perChannel fun c =>
    if c < s.channels then toVal (((s.base c).toNat * (s.getFp c).toNat + addend c) % s.modulus)
    else s.getFp c)

/-- FILL (R191): the pushed byte enters every channel. It counts no bytes (R192). -/
def execFill (b : Byte) (s : State) : Host.Outcome State Fault Refusal :=
  runCommand (encode (.fill b)) (rollChecks s) (rollBy fun _ => b.toNat) s

/-- SLIDE (R193): the table entry of the popped and the pushed byte enters every channel. -/
def execSlide (a b : Byte) (s : State) : Host.Outcome State Fault Refusal :=
  runCommand (encode (.slide a b)) (rollChecks s) (rollBy fun c => (s.entry c a b).toNat) s

end Sys2Proof.Machine
end

