-- ==== Sys2Proof/Machine/Combiner.lean ====
section
/-! DEFINITION. The commands of the combiner: FPCLR, FPGET, FPPUT, CMP and PACK2 (43_combiner.md R210 to R217). -/

namespace Sys2Proof.Machine

/-- FP[0..3] <- 0 (R210). -/
def clearFp (s : State) : State := s.setFps (perChannel fun _ => 0)

/-- FPCLR (R210): all four registers; it needs no configuration. -/
def execFpclr (s : State) : Host.Outcome State Fault Refusal :=
  runCommand (encode .fpclr) [] clearFp s

/-- FPGET (R211): X[rd + c] <- FP[c] for c < K, as they are. -/
def execFpget (rd : Reg) (s : State) : Host.Outcome State Fault Refusal :=
  runCommand (encode (.fpget rd))
    [(!s.cfg.valid, .notConfigured), (tuplePastEnd rd s.channels, .illegalField)]
    (State.setTuple rd ((List.range s.channels).map s.getFp)) s

/-- FP[c] <- X[n + c] for c < K; FP[K..3] unchanged (R212). -/
def loadFp (n : Nat) (s : State) : State :=
  s.setFps (perChannel fun c => if c < s.channels then s.getX (n + c) else s.getFp c)

/-- FPPUT (R212): no range check here. -/
def execFpput (rs1 : Reg) (s : State) : Host.Outcome State Fault Refusal :=
  runCommand (encode (.fpput rs1))
    [(!s.cfg.valid, .notConfigured), (tuplePastEnd rs1 s.channels, .illegalField)] (loadFp rs1) s

/-- The order of two tuples, channel 0 first (R214), as CMP's result (R213): 0 equal, 1 less, 2 greater. -/
def compareTuples : List Val → List Val → Val
  | a :: as, b :: bs =>
    if a = b then compareTuples as bs else if a.toNat < b.toNat then 1 else 2
  | _, _ => 0

/-- CMP (R213). -/
def execCmp (rd rs1 rs2 : Reg) (s : State) : Host.Outcome State Fault Refusal :=
  runCommand (encode (.cmp rd rs1 rs2))
    [(!s.cfg.valid, .notConfigured),
     (tuplePastEnd rs1 s.channels || tuplePastEnd rs2 s.channels, .illegalField),
     ((s.getTuple rs1 s.channels ++ s.getTuple rs2 s.channels).any (fun v => s.modulus ≤ v.toNat),
      .operandRange)]
    (State.setX rd (compareTuples (s.getTuple rs1 s.channels) (s.getTuple rs2 s.channels))) s

/-- {A[60:0], B[60:0]} zero-extended: the packed value of R216, channel 0 high. -/
def packPair (a b : Val) : Val := (a.extractLsb' 0 61 ++ b.extractLsb' 0 61).zeroExtend 128

/-- PACK2 (R216): only for the 122-bit configuration. -/
def execPack2 (rd : Reg) (s : State) : Host.Outcome State Fault Refusal :=
  runCommand (encode (.pack2 rd))
    [(!s.cfg.valid, .notConfigured), (s.channels != 2, .modeMismatch),
     (fpOutOfField s 0 || fpOutOfField s 1, .operandRange)]
    (State.setX rd (packPair (s.getFp 0) (s.getFp 1))) s

end Sys2Proof.Machine
end

