-- ==== Sys2Proof/Machine/Table.lean ====
section
/-! DEFINITION. The commands of the table controller: CONFIG with explicit bases, CONFIG with drawn bases, and
LOOKUP (41_table.md R170 to R174, R177). -/

namespace Sys2Proof.Machine

/-- The configuration a CONFIG commits (R170), from its width, window length and the bases of channels
0 to k - 1. Channels from k on have base and max_exp 0 and no table contents. -/
def configure (ws : WSel) (tau : Nat) (bases : List Nat) : Configuration where
  valid := true
  wsel := ws
  tau := BitVec.ofNat 64 tau
  base := perChannel fun c => if c < ws.channels then toVal (bases.getD c 0) else 0
  maxExp := perChannel fun c =>
    if c < ws.channels then toVal (powMod ws.modulus (bases.getD c 0) tau) else 0
  table := perChannel fun c =>
    if c < ws.channels then some (buildTable ws.modulus (powMod ws.modulus (bases.getD c 0) tau)) else none

/-- A window length CONFIG refuses: 0 or ≥ 2^64 (R170). -/
def badWindow (tau : Val) : Bool := tau.toNat == 0 || 2 ^ 64 ≤ tau.toNat

/-- An explicit base CONFIG refuses: 0 or ≥ p (R170). -/
def badBase (ws : WSel) (base : Val) : Bool := base.toNat == 0 || ws.modulus ≤ base.toNat

/-- CONFIG with E = 1 (R170): the bases are the tuple at rb. -/
def execConfig (rt rb : Reg) (wsel : Option WSel) (s : State) : Host.Outcome State Fault Refusal :=
  match wsel with
  | none => runCommand (encode (.config rt rb wsel)) [(true, .badWidth)] id s
  | some ws =>
    runCommand (encode (.config rt rb wsel))
      [(tuplePastEnd rb ws.channels, .illegalField),
       (badWindow (s.getX rt), .badWindow),
       ((s.getTuple rb ws.channels).any (badBase ws), .badBase)]
      (State.commit (configure ws (s.getX rt).toNat ((s.getTuple rb ws.channels).map BitVec.toNat))) s

/-- The commit of a CONFIG whose bases are drawn, one per channel (R170, R177). -/
def configureDrawn (ws : WSel) (tau : Nat) (s : State) : State :=
  (s.drawMany ws.width ws.channels).2.commit (configure ws tau (s.drawMany ws.width ws.channels).1)

/-- CONFIG with E = 0 (R170): the window is checked before any base is drawn. -/
def execConfigRandom (rt : Reg) (wsel : Option WSel) (s : State) : Host.Outcome State Fault Refusal :=
  match wsel with
  | none => runCommand (encode (.configRandom rt wsel)) [(true, .badWidth)] id s
  | some ws =>
    runCommand (encode (.configRandom rt wsel)) [(badWindow (s.getX rt), .badWindow)]
      (configureDrawn ws (s.getX rt).toNat) s

/-- LOOKUP (R174): X[rd] <- T[ch][a][b], for a configured channel. -/
def execLookup (rd : Reg) (ch : Chan) (a b : Byte) (s : State) : Host.Outcome State Fault Refusal :=
  runCommand (encode (.lookup rd ch a b))
    [(!s.cfg.valid, .notConfigured), (s.channels ≤ ch.val, .illegalField)]
    (State.setX rd (s.entry ch a b)) s

end Sys2Proof.Machine
end

