-- ==== Sys2Proof/Machine/Dispatch.lean ====
section
/-! DEFINITION. One arm for each command: the meaning the spec gives it (30_encoding.md R109). -/

namespace Sys2Proof.Machine

def exec (i : Instr) (s : State) : Host.Outcome State Fault Refusal :=
  match i with
  | .nop => Sys2Proof.Machine.execNop s
  | .reduce rd rs1 sw => Sys2Proof.Machine.execReduce rd rs1 sw s
  | .muladd rd rs1 rs2 rs3 sw => Sys2Proof.Machine.execMuladd rd rs1 rs2 rs3 sw s
  | .muladdr rd rs1 rs2 rs3 sw => Sys2Proof.Machine.execMuladdr rd rs1 rs2 rs3 sw s
  | .pow rd rs1 rs2 sw => Sys2Proof.Machine.execPow rd rs1 rs2 sw s
  | .inv rd rs1 sw => Sys2Proof.Machine.execInv rd rs1 sw s
  | .rand rd sw => Sys2Proof.Machine.execRand rd sw s
  | .config rt rb wsel => Sys2Proof.Machine.execConfig rt rb wsel s
  | .configRandom rt wsel => Sys2Proof.Machine.execConfigRandom rt wsel s
  | .lookup rd ch a b => Sys2Proof.Machine.execLookup rd ch a b s
  | .fill b => Sys2Proof.Machine.execFill b s
  | .slide a b => Sys2Proof.Machine.execSlide a b s
  | .fpclr => Sys2Proof.Machine.execFpclr s
  | .fpget rd => Sys2Proof.Machine.execFpget rd s
  | .fpput rs1 => Sys2Proof.Machine.execFpput rs1 s
  | .cmp rd rs1 rs2 => Sys2Proof.Machine.execCmp rd rs1 rs2 s
  | .pack2 rd => Sys2Proof.Machine.execPack2 rd s

end Sys2Proof.Machine
end

