-- ==== Sys2Proof/Machine/Crate.lean ====
section
/-! DEFINITION. The collision rate as an IEEE 754 binary64 number (41_table.md R176, 10_state.md R43). The format
and the rounding are the spec's general knowledge (93_implementation_defined.md G1). Log entry 11. -/

namespace Sys2Proof.Machine

/-- n / d times 2^shift, as a quotient and a remainder over the divisor it was taken with. -/
structure ScaledQuotient where
  quotient : Nat
  remainder : Nat
  divisor : Nat
  deriving DecidableEq, Repr

/-- n · 2^shift / d. -/
def scaledQuotient (n d : Nat) (shift : Int) : ScaledQuotient where
  quotient := n * 2 ^ shift.toNat / (d * 2 ^ (-shift).toNat)
  remainder := n * 2 ^ shift.toNat % (d * 2 ^ (-shift).toNat)
  divisor := d * 2 ^ (-shift).toNat

/-- The shift that brings n / d between 2^52 and 2^53: the significand of a normal number has 53 bits. -/
def significandShift (n d : Nat) : Int :=
  let shift : Int := 52 - (n.log2 : Int) + (d.log2 : Int)
  if (scaledQuotient n d shift).quotient < 2 ^ 52 then shift + 1 else shift

/-- The nearest integer, ties to the even one. -/
def ScaledQuotient.nearestEven (q : ScaledQuotient) : Nat :=
  if q.divisor < 2 * q.remainder ∨ (2 * q.remainder = q.divisor ∧ q.quotient % 2 = 1) then q.quotient + 1
  else q.quotient

/-- The binary64 encoding nearest to n / d, ties to even (R176), where the result is 0 or normal, as it is
for every legal configuration: exponent and fraction fields added, so that a significand rounded up to 2^53
carries into the exponent. -/
def nearestBinary64 (n d : Nat) : BitVec 64 :=
  if n = 0 then 0
  else
    BitVec.ofNat 64
      ((1023 + 52 - significandShift n d).toNat * 2 ^ 52
        + ((scaledQuotient n d (significandShift n d)).nearestEven - 2 ^ 52))

/-- CRATE (10_state.md R43, 41_table.md R176): ((CFG_TAU - 1) / P)^K rounded once, +0.0 while not configured. -/
def State.crate (s : State) : BitVec 64 :=
  if s.cfg.valid then nearestBinary64 ((s.cfg.tau.toNat - 1) ^ s.channels) (s.modulus ^ s.channels) else 0

end Sys2Proof.Machine
end

