-- ==== Sys2Proof/Machine/Port.lean ====
section
/-! DEFINITION. The host port: the register window and one host access (20_memory.md R60 to R71, 10_state.md
R31 to R46), the host's pseudo-operations (30_encoding.md R118), and one completion of the engine. -/

namespace Sys2Proof.Machine

/-! ## The window's map -/

/-- What an aligned offset of the window names (20_memory.md R66); `word` is the word of a wider register. -/
inductive PortReg where
  | id
  | ctrl
  | status
  | cmd
  | errCmd
  | cfgInfo
  | cfgTau (word : Nat)
  | crate (word : Nat)
  | x (i word : Nat)
  | fp (c word : Nat)
  | cfgBase (c word : Nat)
  | cfgMaxExp (c word : Nat)
  | reserved
  deriving DecidableEq, Repr

/-- The registers below 0x100 (R66). -/
def lowPortReg (off : Nat) : PortReg :=
  if off = 0x000 then .id
  else if off = 0x004 then .ctrl
  else if off = 0x008 then .status
  else if off = 0x00C then .cmd
  else if off = 0x010 then .errCmd
  else if off = 0x014 then .cfgInfo
  else if off = 0x018 then .cfgTau 0
  else if off = 0x01C then .cfgTau 1
  else if off = 0x020 then .crate 0
  else if off = 0x024 then .crate 1
  else .reserved

/-- The register at an aligned offset of the window (R66). -/
def portReg (off : Nat) : PortReg :=
  if off < 0x100 then lowPortReg off
  else if off < 0x200 then .x ((off - 0x100) / 16) (off % 16 / 4)
  else if off < 0x240 then .fp ((off - 0x200) / 16) (off % 16 / 4)
  else if off < 0x300 then .reserved
  else if off < 0x340 then .cfgBase ((off - 0x300) / 16) (off % 16 / 4)
  else if off < 0x380 then .cfgMaxExp ((off - 0x340) / 16) (off % 16 / 4)
  else .reserved

/-- An access to this register waits while the engine is busy (R66, R68, R70). -/
def PortReg.held : PortReg → Bool
  | .id => false
  | .ctrl => false
  | .status => false
  | .reserved => false
  | .cmd => true
  | .errCmd => true
  | .cfgInfo => true
  | .cfgTau _ => true
  | .crate _ => true
  | .x _ _ => true
  | .fp _ _ => true
  | .cfgBase _ _ => true
  | .cfgMaxExp _ _ => true

/-- An aligned 4-byte access; any other gets a bus error (R63). -/
def Access.legal (a : Access) : Bool := a.size == 2 && a.addr.toNat % 4 == 0

/-- The register a legal access reaches. -/
def Access.reg (a : Access) : PortReg := portReg a.addr.toNat

/-- The access waits while the engine is busy; one that gets a bus error never waits (R70). -/
def Access.held (a : Access) : Bool := a.legal && a.reg.held

/-- The system address of an offset: the platform places the window at ENGINE_BASE (R66, D49). -/
def systemAddress (off : Nat) : Nat := Config.engineBase + off

/-- The interrupt line as the platform sees it: its number ENGINE_IRQ and its level (60_exceptions.md R237). -/
def State.irqLine (s : State) : Nat × Bool := (Config.engineIrq, s.irq)

/-! ## Reading and writing -/

/-- The constant of the ID register (10_state.md R31). -/
def idWord : Word := 0x4B524D07

/-- Word `j` of a 128-bit register: bits [32j+31:32j] (20_memory.md R65). -/
def valWord (v : Val) (j : Nat) : Word := v.extractLsb' (32 * j) 32

/-- Word `j` of a 128-bit register replaced, the other 96 bits unchanged (10_state.md R46). -/
def setValWord (v : Val) (j : Nat) (w : Word) : Val :=
  (v &&& ~~~(0xFFFFFFFF#128 <<< (32 * j))) ||| (w.zeroExtend 128 <<< (32 * j))

/-- CFG_INFO (10_state.md R41). -/
def State.cfgInfoWord (s : State) : Word :=
  if s.cfg.valid then
    0#9 ++ s.cfg.wsel.code ++ 0#1 ++ BitVec.ofNat 3 s.channels
      ++ BitVec.ofNat 8 s.cfg.wsel.width.bits ++ BitVec.ofNat 8 (s.cfg.wsel.width.bits * s.channels)
  else 0

/-- What a read of a register returns (10_state.md R31 to R46, 20_memory.md R67). It changes nothing (R69). -/
def State.readReg (s : State) : PortReg → Word
  | .id => idWord
  | .ctrl => s.ctrlWord
  | .status => s.statusWord
  | .cmd => s.lastCmd
  | .errCmd => s.errCmd
  | .cfgInfo => s.cfgInfoWord
  | .cfgTau j => s.cfg.tau.extractLsb' (32 * j) 32
  | .crate j => s.crate.extractLsb' (32 * j) 32
  | .x i j => valWord (s.getX i) j
  | .fp c j => valWord (s.getFp c) j
  | .cfgBase c j => valWord (s.base c) j
  | .cfgMaxExp c j => valWord (s.maxExp c) j
  | .reserved => 0

/-- The interrupt enables take these values. -/
def State.setEnables (errIe doneIe : Bool) (s : State) : State := { s with errIe := errIe, doneIe := doneIe }

/-- A command word becomes the busy command (10_state.md R22, R38). -/
def State.accept (w : Word) (s : State) : State := { s with busy := some w }

/-- The host port answers an access. -/
def State.respond (r : Response) (s : State) : State := { s with response := some r }

/-- These events lie ahead. -/
def State.withAgenda (events : List Event) (s : State) : State := { s with agenda := events }

/-- A CTRL write (10_state.md R32): bit 0 performs a soft reset, else bits 1 and 2 are the enables. -/
def State.writeCtrl (w : Word) (s : State) : State :=
  if w.getLsbD 0 then s.resetEngine else s.setEnables (w.getLsbD 1) (w.getLsbD 2)

/-- A STATUS write (R33): bit 2 clears ERR and ERRCODE, bit 3 clears DONE. -/
def State.writeStatus (w : Word) (s : State) : State :=
  let cleared := if w.getLsbD 2 then s.clearError else s
  if w.getLsbD 3 then cleared.clearDone else cleared

/-- A CMD write that is not held (R38): the word becomes the busy command, or is discarded while ERR = 1
(60_exceptions.md R234). -/
def State.offerCommand (w : Word) (s : State) : State :=
  if s.err then s else s.accept w

/-- A write of a register (10_state.md R31 to R46, 20_memory.md R67, R68). -/
def State.writeReg (w : Word) (s : State) : PortReg → State
  | .ctrl => s.writeCtrl w
  | .status => s.writeStatus w
  | .cmd => s.offerCommand w
  | .x i j => s.setX i (setValWord (s.getX i) j w)
  | .fp c j => s.setFps (s.fp.setIfInBounds c (setValWord (s.getFp c) j w))
  | .id => s
  | .errCmd => s
  | .cfgInfo => s
  | .cfgTau _ => s
  | .crate _ => s
  | .cfgBase _ _ => s
  | .cfgMaxExp _ _ => s
  | .reserved => s

/-- One host access completes (20_memory.md R63, R66 to R69, R73): a bus error without effect, a read, or a
write. -/
def State.completeAccess (a : Access) (s : State) : State :=
  if !a.legal then s.respond ⟨if a.write then none else some 0, true⟩
  else if a.write then (s.writeReg a.wdata a.reg).respond ⟨none, false⟩
  else s.respond ⟨some (s.readReg a.reg), false⟩

/-- A moment with rst_n = 0 (70_reset_and_hazards.md R260): the engine is in its reset state and the host
port completes nothing. Log entry 14. -/
def State.pinReset (s : State) : State := s.resetEngine

/-- A command accepted and not yet completed, its completion being the next event (10_state.md R22, R38). -/
def State.acceptNext (w : Word) (s : State) : State :=
  (s.accept w).withAgenda (.complete :: s.agenda)

/-! ## The host's pseudo-operations (30_encoding.md R118) -/

/-- MemWrite(addr, 4, v) as an event. -/
def memWrite (addr : Nat) (v : Word) : Event := .access ⟨true, BitVec.ofNat 10 addr, 2, v⟩

/-- MemRead(addr, 4) as an event. -/
def memRead (addr : Nat) : Event := .access ⟨false, BitVec.ofNat 10 addr, 2, 0⟩

/-- WRX Xi, v. -/
def wrx (i : Reg) (v : Val) : List Event :=
  (List.range 4).map fun j => memWrite (0x100 + 16 * i.val + 4 * j) (valWord v j)

/-- RDX Xi. -/
def rdx (i : Reg) : List Event := (List.range 4).map fun j => memRead (0x100 + 16 * i.val + 4 * j)

/-- WRFP FPc, v. -/
def wrfp (c : Chan) (v : Val) : List Event :=
  (List.range 4).map fun j => memWrite (0x200 + 16 * c.val + 4 * j) (valWord v j)

/-- RDFP FPc. -/
def rdfp (c : Chan) : List Event := (List.range 4).map fun j => memRead (0x200 + 16 * c.val + 4 * j)

/-- RDSTATUS. -/
def rdstatus : Event := memRead 0x008

/-- CLRERR. -/
def clrerr : Event := memWrite 0x008 0x00000004

/-- CLRDONE. -/
def clrdone : Event := memWrite 0x008 0x00000008

/-- A command mnemonic: the write of its word to CMD. -/
def command (i : Instr) : Event := memWrite 0x00C (encode i)

end Sys2Proof.Machine
end

