-- ==== Sys2Proof/Machine/Step.lean ====
section
/-! DEFINITION. One step of the machine: one event of the total order of 20_memory.md R74 (60_exceptions.md R238). -/

namespace Sys2Proof.Machine

/-- The engine's completion step: the busy command is decoded and executed (10_state.md R22, R38,
60_exceptions.md R233, R236); a word that is no command ends in error (30_encoding.md R110, R111). With no
busy command the engine is idle and all state survives (60_exceptions.md R246). -/
def engineStep (s : State) : Host.Outcome State Fault Refusal :=
  match s.busy with
  | none => .next s
  | some w =>
    match decode w with
    | .ok i => exec i s
    | .error e => .next (s.raiseError w e)

/-- One step: the next event of the agenda. A held access waits for the busy command, whose completion then
comes first (20_memory.md R70); with nothing ahead the busy command completes (70_reset_and_hazards.md R271). -/
def step (s : State) : Host.Outcome State Fault Refusal :=
  match s.agenda with
  | [] => engineStep s
  | .complete :: rest => engineStep (s.withAgenda rest)
  | .resetLow :: rest => .next (s.withAgenda rest).pinReset
  | .access a :: rest =>
    if s.busyBit && a.held then engineStep s
    else .next ((s.withAgenda rest).completeAccess a)

/-- The state in which the very next step runs the command whose bits are `w`: the word is the busy command
and its completion is the next event. -/
def State.withFetchWord (s : State) (_nbits w : Nat) : State := s.acceptNext (BitVec.ofNat 32 w)

end Sys2Proof.Machine
end

