-- ==== Sys2Proof/Machine/Assembler.lean ====
section
/-! DEFINITION. The assembler syntax of a command (30_encoding.md R117): one mnemonic, one command word. -/

namespace Sys2Proof

/-- The mnemonic of a command as spec/opcode_table.json spells it. -/
def Instr.mnemonic : Instr → String
  | .nop => "NOP"
  | .reduce _ _ _ => "REDUCE"
  | .muladd _ _ _ _ _ => "MULADD"
  | .muladdr _ _ _ _ _ => "MULADDR"
  | .pow _ _ _ _ => "POW"
  | .inv _ _ _ => "INV"
  | .rand _ _ => "RAND"
  | .config _ _ _ => "CONFIG"
  | .configRandom _ _ => "CONFIG.RANDOM"
  | .lookup _ _ _ _ => "LOOKUP"
  | .fill _ => "FILL"
  | .slide _ _ => "SLIDE"
  | .fpclr => "FPCLR"
  | .fpget _ => "FPGET"
  | .fpput _ => "FPPUT"
  | .cmp _ _ _ => "CMP"
  | .pack2 _ => "PACK2"

namespace Machine

/-- A number below 256 in decimal digits. -/
def digits (n : Nat) : String :=
  if n < 10 then String.singleton (Nat.digitChar n)
  else if n < 100 then
    String.singleton (Nat.digitChar (n / 10)) ++ String.singleton (Nat.digitChar (n % 10))
  else
    String.singleton (Nat.digitChar (n / 100)) ++ String.singleton (Nat.digitChar (n / 10 % 10))
      ++ String.singleton (Nat.digitChar (n % 10))

/-- The name of a value register in assembler text. -/
def regText (r : Reg) : String := "X" ++ digits r.val

/-- The width suffix of an arithmetic command (R105). -/
def widthText : Width → String
  | .w61 => ".61"
  | .w89 => ".89"
  | .w107 => ".107"
  | .w127 => ".127"

/-- The width suffix of a CONFIG (R106); the reserved code has none. -/
def wselText : WSel → String
  | .w61 => ".61"
  | .w89 => ".89"
  | .w107 => ".107"
  | .w127 => ".127"
  | .w122 => ".122"
  | .w183 => ".183"
  | .w244 => ".244"

/-- Operands separated by commas. -/
def operandsText : List String → String
  | [] => ""
  | [o] => " " ++ o
  | o :: os => " " ++ o ++ "," ++ operandsText os

/-- The assembler form of a command (R117), bytes written as numbers; a CONFIG with the reserved width code
has no form. -/
def assemblerText : Instr → Option String
  | .nop => some "NOP"
  | .reduce rd rs1 sw => some ("REDUCE" ++ widthText sw ++ operandsText [regText rd, regText rs1])
  | .muladd rd rs1 rs2 rs3 sw =>
    some ("MULADD" ++ widthText sw ++ operandsText [regText rd, regText rs1, regText rs2, regText rs3])
  | .muladdr rd rs1 rs2 rs3 sw =>
    some ("MULADDR" ++ widthText sw ++ operandsText [regText rd, regText rs1, regText rs2, regText rs3])
  | .pow rd rs1 rs2 sw =>
    some ("POW" ++ widthText sw ++ operandsText [regText rd, regText rs1, regText rs2])
  | .inv rd rs1 sw => some ("INV" ++ widthText sw ++ operandsText [regText rd, regText rs1])
  | .rand rd sw => some ("RAND" ++ widthText sw ++ operandsText [regText rd])
  | .config rt rb wsel =>
    wsel.map fun ws => "CONFIG" ++ wselText ws ++ operandsText [regText rt, regText rb]
  | .configRandom rt wsel =>
    wsel.map fun ws => "CONFIG" ++ wselText ws ++ operandsText [regText rt, "RANDOM"]
  | .lookup rd ch a b =>
    some ("LOOKUP" ++ operandsText [regText rd, "C" ++ digits ch.val, digits a.toNat, digits b.toNat])
  | .fill b => some ("FILL" ++ operandsText [digits b.toNat])
  | .slide a b => some ("SLIDE" ++ operandsText [digits a.toNat, digits b.toNat])
  | .fpclr => some "FPCLR"
  | .fpget rd => some ("FPGET" ++ operandsText [regText rd])
  | .fpput rs1 => some ("FPPUT" ++ operandsText [regText rs1])
  | .cmp rd rs1 rs2 => some ("CMP" ++ operandsText [regText rd, regText rs1, regText rs2])
  | .pack2 rd => some ("PACK2" ++ operandsText [regText rd])

end Machine
end Sys2Proof
end

