-- ==== Sys2Proof/Machine/HostOps.lean ====
section
/-! DEFINITION. What the host learns: the answers the port gives along a run, and the results of the host's reading
pseudo-operations (30_encoding.md R118), whose accesses Sys2Proof/Machine/Port.lean lists. -/

namespace Sys2Proof.Machine

/-- The answer a step from s to t gives: that of the access it completes. A step in which the next access is held, or in
which no access is next, answers nothing (20_memory.md R70). -/
def answerOfStep (s t : State) : List Response :=
  match s.agenda with
  | .access a :: _ => if s.busyBit && a.held then [] else t.response.toList
  | .complete :: _ => []
  | .resetLow :: _ => []
  | [] => []

/-- The answers of the accesses that complete in the next n steps, in order. -/
def answers : Nat → State → List Response
  | 0, _ => []
  | n + 1, s =>
    match step s with
    | .next t => answerOfStep s t ++ answers n t
    | .fault _ => []
    | .refused _ => []

/-- Four words as one 128-bit value, word 3 highest (20_memory.md R65, R118). -/
def joinWords (w0 w1 w2 w3 : Word) : Val := w3 ++ w2 ++ w1 ++ w0

/-- The result of four reads: the concatenation of the words read, word 3 highest (R118). The reads may lie apart, with
other events between them (70_reset_and_hazards.md R269). -/
def readResult : List Response → Option Val
  | [⟨some w0, _⟩, ⟨some w1, _⟩, ⟨some w2, _⟩, ⟨some w3, _⟩] => some (joinWords w0 w1 w2 w3)
  | _ => none

/-- The result of four reads of a 128-bit register that come before every event ahead; while a command is busy it ends
first, since these reads are held (R70). -/
def readNext (reads : List Event) (s : State) : Option Val :=
  readResult (answers (4 + s.busyBit.toNat) (s.withAgenda (reads ++ s.agenda)))

/-- What RDX Xi returns when its reads come next (R118). -/
def rdxResult (i : Reg) (s : State) : Option Val := readNext (rdx i) s

/-- What RDFP FPc returns when its reads come next (R118). -/
def rdfpResult (c : Chan) (s : State) : Option Val := readNext (rdfp c) s

/-- What RDSTATUS returns when its read comes next; it is never held (R118, 10_state.md R33). -/
def rdstatusResult (s : State) : Option Word :=
  (answers 1 (s.withAgenda (rdstatus :: s.agenda))).head?.bind Response.rdata

end Sys2Proof.Machine
end

