-- ==== Sys2Proof/Safety.lean ====
section
/-! DEFINITION. The terms claims use: the invariant of the state (10_state.md R30, R34, R36), the two ways a command
ends spelled out field by field (60_exceptions.md R233, R236), and what is kept (the frame). -/

namespace Sys2Proof.Machine

/-! ## The invariant -/

/-- A configured channel (10_state.md R30): its base is in [1, P - 1], its max_exp is base^tau mod P, and its
table has contents, the roll deltas of 41_table.md R172. -/
def ChannelConfigured (s : State) (c : Nat) : Prop :=
  (s.cfg.table[c]?.getD none).isSome = true ∧
  1 ≤ (s.base c).toNat ∧ (s.base c).toNat ≤ s.modulus - 1 ∧
  (s.maxExp c).toNat = (s.base c).toNat ^ s.cfg.tau.toNat % s.modulus ∧
  ∀ a b : Byte, (s.entry c a b).toNat
    = (s.modulus - a.toNat * (s.maxExp c).toNat % s.modulus + b.toNat) % s.modulus

/-- A channel beyond the configured ones (R30). -/
def ChannelUnused (s : State) (c : Nat) : Prop := s.base c = 0 ∧ s.maxExp c = 0

/-- The configuration state while CFG_VALID = 1 (R30). -/
def Configured (s : State) : Prop :=
  s.cfg.valid = true ∧ 1 ≤ s.cfg.tau.toNat ∧
  (∀ c < s.channels, ChannelConfigured s c) ∧
  (∀ c < 4, s.channels ≤ c → ChannelUnused s c)

/-- The configuration is one CONFIG built, or still the reset one (R28, R30). -/
def ConfigurationInv (s : State) : Prop := Configured s ∨ s.cfg = Configuration.reset

/-- ERRCODE is 0 exactly while ERR = 0 (10_state.md R33, R36). -/
def ErrorRecordInv (s : State) : Prop := s.err = true ↔ s.errCode ≠ .noError

/-- A command is accepted only while ERR = 0, and ERR is set only as a command ends (R36, R38). -/
def BusyInv (s : State) : Prop := s.busy ≠ none → s.err = false

/-- The invariant every step keeps. -/
def Inv (s : State) : Prop := ConfigurationInv s ∧ ErrorRecordInv s ∧ BusyInv s

/-! ## How a command ends -/

/-- From s to t the command word w ended in error e (60_exceptions.md R233): the error record, and nothing
else changed. -/
def EndsInError (w : Word) (e : ErrCode) (s t : State) : Prop :=
  t.err = true ∧ t.errCode = e ∧ t.errCmd = w ∧ t.busy = none ∧
  t.x = s.x ∧ t.fp = s.fp ∧ t.cfg = s.cfg ∧ t.errIe = s.errIe ∧ t.doneIe = s.doneIe ∧
  t.done = s.done ∧ t.lastCmd = s.lastCmd ∧ t.agenda = s.agenda ∧ t.response = s.response ∧
  t.rng = s.rng ∧ t.draws = s.draws

/-- From s to t the command word w completed (60_exceptions.md R236): the completion record, with the error
record, the enables and the host's side kept. -/
def Completes (w : Word) (s t : State) : Prop :=
  t.done = true ∧ t.lastCmd = w ∧ t.busy = none ∧
  t.err = s.err ∧ t.errCode = s.errCode ∧ t.errCmd = s.errCmd ∧
  t.errIe = s.errIe ∧ t.doneIe = s.doneIe ∧ t.agenda = s.agenda ∧ t.response = s.response

/-! ## Frames -/

/-- Every value register but the listed ones is unchanged. -/
def XKeptBut (written : List Nat) (s t : State) : Prop :=
  ∀ n < 16, n ∉ written → t.getX n = s.getX n

/-- Every fingerprint register is unchanged. -/
def FpKept (s t : State) : Prop := t.fp = s.fp

/-- The whole configuration state, table memory included, is unchanged. -/
def CfgKept (s t : State) : Prop := t.cfg = s.cfg

/-- No entropy word is taken. -/
def EntropyKept (s t : State) : Prop := t.rng = s.rng ∧ t.draws = s.draws

/-! ## Safe runs -/

/-- The states a run can pass through: from reset, with any events ahead and any entropy words on offer. -/
inductive Reachable : State → Prop where
  | start (agenda : List Event) (rng : List EntropyWord) :
      Reachable { State.reset with agenda := agenda, rng := rng }
  | next {s t : State} : Reachable s → step s = .next t → Reachable t

/-- A run from s that takes n steps without a fault or a refusal. -/
def RunsSafely (n : Nat) (s : State) : Prop := ∃ t, Host.Core.run Sys2Proof.core n s = .next t

end Sys2Proof.Machine
end

