-- ==== Sys2Proof/Certificates/Slice0/Obligations.lean ====
section
/-! DEFINITION. The statements for the provers, with the terms they are written in: words computed as numbers from the
formats of 30_encoding.md, and the rules' own conditions, none of them taken from the decoder or a meaning. -/

namespace Sys2Proof.Spec

open Sys2Proof Sys2Proof.Machine

/-! ## Words as numbers -/

/-- The sw code of a width (30_encoding.md R105). -/
def swNumber : Width → Nat
  | .w61 => 0
  | .w89 => 1
  | .w107 => 2
  | .w127 => 3

/-- The wsel code of a configuration width, 7 for the reserved one (R106). -/
def wselNumber : Option WSel → Nat
  | some .w61 => 0
  | some .w89 => 1
  | some .w107 => 2
  | some .w127 => 3
  | some .w122 => 4
  | some .w183 => 5
  | some .w244 => 6
  | none => 7

/-- Format N (R101). -/
def wordN (op : Nat) : Word := BitVec.ofNat 32 (op * 2 ^ 24)

/-- Format R (R102). -/
def wordR (op rd rs1 rs2 rs3 sw : Nat) : Word :=
  BitVec.ofNat 32 (op * 2 ^ 24 + rd * 2 ^ 20 + rs1 * 2 ^ 16 + rs2 * 2 ^ 12 + rs3 * 2 ^ 8 + sw)

/-- Format C (R103). -/
def wordC (rt rb e wsel : Nat) : Word :=
  BitVec.ofNat 32 (0x10 * 2 ^ 24 + rt * 2 ^ 20 + rb * 2 ^ 16 + e * 2 ^ 11 + wsel * 2 ^ 8)

/-- Format L (R104). -/
def wordL (rd ch a b : Nat) : Word :=
  BitVec.ofNat 32 (0x11 * 2 ^ 24 + rd * 2 ^ 20 + ch * 2 ^ 18 + a * 2 ^ 8 + b)

/-- Format B (R107). -/
def wordB (op a b : Nat) : Word := BitVec.ofNat 32 (op * 2 ^ 24 + a * 2 ^ 8 + b)

/-- The command has this word, and the word is read as the command. -/
def HasWord (i : Instr) (w : Word) : Prop := encode i = w ∧ decode w = .ok i

/-- Bits [lo+n-1:lo] of a word as a number. -/
def bits (w : Word) (lo n : Nat) : Nat := w.toNat / 2 ^ lo % 2 ^ n

/-- The opcode of a word, bits [31:24]. -/
def opcode (w : Word) : Nat := bits w 24 8

/-- The rows of 30_encoding.md R111: mnemonic, opcode, mask of fixed bits, match. -/
def rows : List (String × Nat × Word × Word) :=
  [("NOP", 0x00, 0xFFFFFFFF, 0x00000000),
   ("REDUCE", 0x01, 0xFF01FFFC, 0x01000000),
   ("MULADD", 0x02, 0xFF1000FC, 0x02000000),
   ("MULADDR", 0x03, 0xFF0000FC, 0x03000000),
   ("POW", 0x04, 0xFF000FFC, 0x04000000),
   ("INV", 0x05, 0xFF00FFFC, 0x05000000),
   ("RAND", 0x06, 0xFF0FFFFC, 0x06000000),
   ("CONFIG", 0x10, 0xFF00F8FF, 0x10000800),
   ("CONFIG.RANDOM", 0x10, 0xFF0FF8FF, 0x10000000)] ++
  [("LOOKUP", 0x11, 0xFF030000, 0x11000000),
   ("FILL", 0x20, 0xFFFFFF00, 0x20000000),
   ("SLIDE", 0x21, 0xFFFF0000, 0x21000000),
   ("FPCLR", 0x30, 0xFFFFFFFF, 0x30000000),
   ("FPGET", 0x31, 0xFF0FFFFF, 0x31000000),
   ("FPPUT", 0x32, 0xFFF0FFFF, 0x32000000),
   ("CMP", 0x33, 0xFF000FFF, 0x33000000),
   ("PACK2", 0x34, 0xFF0FFFFF, 0x34000000)]

/-- The assigned opcodes (R109, R113). -/
def assigned : List Nat :=
  [0x00, 0x01, 0x02, 0x03, 0x04, 0x05, 0x06, 0x10, 0x11, 0x20, 0x21, 0x30, 0x31, 0x32, 0x33, 0x34]

/-! ## How the engine ends a word -/

/-- The engine, holding w as its busy command in s, ends it in error e and changes nothing else (R233). -/
def EngineFails (w : Word) (e : ErrCode) (s : State) : Prop :=
  s.busy = some w → ∃ t, engineStep s = .next t ∧ EndsInError w e s t

/-- The command ends in error e and changes nothing else. -/
def Raises (i : Instr) (e : ErrCode) (s : State) : Prop :=
  ∃ t, exec i s = .next t ∧ EndsInError (encode i) e s t

/-- Every word with this opcode that misses the fixed bits of its row ends in ILLEGAL_FIELD (R111). -/
def RejectsBadFields (op : Nat) (mask pattern : Word) : Prop :=
  ∀ (w : Word) (s : State), opcode w = op → w &&& mask ≠ pattern → EngineFails w .illegalField s

/-! ## Conditions of the rules -/

/-- PAIR(n) as a number (10_state.md R24). -/
def pairNat (s : State) (n : Nat) : Nat := (s.getX (n + 1)).toNat * 2 ^ 128 + (s.getX n).toNat

/-- X[n] as a number. -/
def xNat (s : State) (n : Nat) : Nat := (s.getX n).toNat

/-- FP[c] as a number. -/
def fpNat (s : State) (c : Nat) : Nat := (s.getFp c).toNat

/-- Some configured fingerprint register is not a field element (42_roll.md R190). -/
def FpOutOfRange (s : State) : Prop := ∃ c < s.channels, s.modulus ≤ fpNat s c

/-- The roll delta (P - (a · base^tau mod P) + b) mod P (41_table.md R172). -/
def delta (p base tau a b : Nat) : Nat := (p - a * (base ^ tau % p) % p + b) % p

/-- The configuration a CONFIG of this width, window length and bases leaves (41_table.md R170). -/
def HoldsConfiguration (ws : WSel) (tau : Nat) (base : Nat → Nat) (t : State) : Prop :=
  t.cfg.valid = true ∧ t.cfg.wsel = ws ∧ t.cfg.tau.toNat = tau ∧
  (∀ c < ws.channels, (t.base c).toNat = base c ∧ (t.maxExp c).toNat = base c ^ tau % ws.modulus ∧
    ∀ a b : Byte, (t.entry c a b).toNat = delta ws.modulus (base c) tau a.toNat b.toNat) ∧
  (∀ c < 4, ws.channels ≤ c → t.base c = 0 ∧ t.maxExp c = 0)

/-- The candidates the rejection sampling accepts, in order (20_memory.md R72). -/
def acceptable (w : Width) (es : List EntropyWord) : List Nat :=
  (es.map fun e => e.toNat % 2 ^ w.bits).filter fun v => 1 ≤ v ∧ v ≤ w.modulus - 1

/-- A <lex B over k channels, channel 0 first (43_combiner.md R214). -/
def LexLess (k : Nat) (A B : Nat → Nat) : Prop := ∃ j < k, (∀ c < j, A c = B c) ∧ A j < B j

/-! ## Runs of commands -/

/-- Commands executed one after the other. -/
def execAll : List Instr → State → Host.Outcome State Fault Refusal
  | [], s => .next s
  | i :: is, s =>
    match exec i s with
    | .next t => execAll is t
    | .fault r => .fault r
    | .refused r => .refused r

/-- FILL x_0, ..., FILL x_(m-1). -/
def fills (x : Nat → Byte) (m : Nat) : List Instr := (List.range m).map fun i => .fill (x i)

/-- SLIDE x_0, x_tau, ..., SLIDE x_(n-1), x_(tau+n-1). -/
def slides (x : Nat → Byte) (tau n : Nat) : List Instr :=
  (List.range n).map fun i => .slide (x i) (x (i + tau))

/-- The window polynomial Σ_{i<m} x_(start+i) · β^(m-1-i) mod p (42_roll.md R196). -/
def windowPoly (p β : Nat) (x : Nat → Byte) (start m : Nat) : Nat :=
  (∑ i ∈ Finset.range m, (x (start + i)).toNat * β ^ (m - 1 - i)) % p

/-- The single-field engine of a channel (42_roll.md R195): width 61, the same window length, the channel's base,
max_exp, table and fingerprint. -/
def alone (c : Nat) (s : State) : State :=
  { s with
    cfg := { valid := s.cfg.valid, wsel := .w61, tau := s.cfg.tau, base := #v[s.base c, 0, 0, 0],
             maxExp := #v[s.maxExp c, 0, 0, 0], table := #v[s.cfg.table[c]?.getD none, none, none, none] }
    fp := #v[s.getFp c, 0, 0, 0] }

/-! ## The host port -/

/-- The state with one host access less ahead and its answer given. -/
def answered (s : State) (rest : List Event) (data : Option Word) (busError : Bool) : State :=
  { s with agenda := rest, response := some ⟨data, busError⟩ }

/-- A read of an offset, when it is the next event, returns this word and changes nothing. -/
def ReadsAs (s : State) (off : Nat) (w : Word) : Prop :=
  ∀ rest, s.agenda = memRead off :: rest → step s = .next (answered s rest (some w) false)

/-- The offsets at which an access waits while the engine is busy (20_memory.md R66). -/
def heldOffset (off : Nat) : Bool :=
  off == 0x00C || (0x010 ≤ off && off < 0x028) || (0x100 ≤ off && off < 0x240) || (0x300 ≤ off && off < 0x380)

/-- The reserved offsets (R66, R67). -/
def reservedOffset (off : Nat) : Bool :=
  (0x028 ≤ off && off < 0x100) || (0x240 ≤ off && off < 0x300) || (0x380 ≤ off && off < 0x400)

/-- The offsets of read-only registers: ID, ERRCMD, CFG_INFO, CFG_TAU, CRATE, CFG_BASE, CFG_MAXEXP (R66, R68). -/
def readOnlyOffset (off : Nat) : Bool :=
  off == 0x000 || (0x010 ≤ off && off < 0x028) || (0x300 ≤ off && off < 0x380)

/-- An aligned 4-byte access (R63). -/
def Aligned (a : Access) : Prop := a.size = 2 ∧ a.addr.toNat % 4 = 0

/-- The event resets the engine: a moment of rst_n, or a CTRL write with bit 0 = 1 (70_reset_and_hazards.md R260). -/
def IsReset : Event → Prop
  | .resetLow => True
  | .access a => Aligned a ∧ a.write = true ∧ a.addr.toNat = 0x004 ∧ a.wdata.getLsbD 0 = true
  | .complete => False

/-- The event is a STATUS write with this bit set (10_state.md R33). -/
def StatusWrite (bit : Nat) : Event → Prop
  | .access a => Aligned a ∧ a.write = true ∧ a.addr.toNat = 0x008 ∧ a.wdata.getLsbD bit = true
  | _ => False

/-- The event is a CTRL write (R32). -/
def CtrlWrite : Event → Prop
  | .access a => Aligned a ∧ a.write = true ∧ a.addr.toNat = 0x004
  | _ => False

/-- The engine of t is in the reset state of R261, what lies outside it is as in s but for the agenda and the port's
answer. -/
def ResetFrom (s t : State) : Prop :=
  (∀ n < 16, t.getX n = 0) ∧ (∀ c < 4, t.getFp c = 0) ∧ t.cfg.valid = false ∧ t.cfg.wsel = .w61 ∧
  t.cfg.tau = 0 ∧ (∀ c < 4, t.base c = 0 ∧ t.maxExp c = 0) ∧ t.errIe = false ∧ t.doneIe = false ∧
  t.busy = none ∧ t.err = false ∧ t.errCode = .noError ∧ t.done = false ∧ t.lastCmd = 0 ∧ t.errCmd = 0 ∧
  t.rng = s.rng ∧ t.draws = s.draws

/-! ## The check order -/

/-- p for an sw code (R105). -/
def swModulus (code : Nat) : Nat :=
  if code = 0 then 2 ^ 61 - 1 else if code = 1 then 2 ^ 89 - 1 else if code = 2 then 2 ^ 107 - 1 else 2 ^ 127 - 1

/-- p for a wsel code (R106). -/
def wselModulus (code : Nat) : Nat :=
  if code = 1 then 2 ^ 89 - 1 else if code = 2 then 2 ^ 107 - 1 else if code = 3 then 2 ^ 127 - 1 else 2 ^ 61 - 1

/-- k for a wsel code (R106). -/
def wselChannels (code : Nat) : Nat :=
  if code = 4 then 2 else if code = 5 then 3 else if code = 6 then 4 else 1

/-- Check n of 60_exceptions.md R232 fails for the word w in the state s, read from the word's bits alone. A check
that does not apply to the opcode does not fail. -/
def checkFails (n : Nat) (w : Word) (s : State) : Prop :=
  let op := opcode w
  let rd := bits w 20 4
  let rs1 := bits w 16 4
  let rs2 := bits w 12 4
  let rs3 := bits w 8 4
  let p := swModulus (bits w 0 2)
  let wsel := bits w 8 3
  let explicit := bits w 11 1 = 1
  match n with
  | 1 => op ∉ assigned
  | 2 => ∀ r ∈ rows, w &&& r.2.2.1 ≠ r.2.2.2
  | 3 => op = 0x10 ∧ wsel = 7
  | 4 => op ∈ [0x11, 0x20, 0x21, 0x31, 0x32, 0x33, 0x34] ∧ s.cfg.valid = false
  | 5 => (op = 0x10 ∧ explicit ∧ 15 < rs1 + wselChannels wsel - 1) ∨
         (op = 0x11 ∧ s.channels ≤ bits w 18 2) ∨
         (op = 0x31 ∧ 15 < rd + s.channels - 1) ∨ (op = 0x32 ∧ 15 < rs1 + s.channels - 1) ∨
         (op = 0x33 ∧ (15 < rs1 + s.channels - 1 ∨ 15 < rs2 + s.channels - 1))
  | 6 => op = 0x34 ∧ s.channels ≠ 2
  | 7 => op = 0x10 ∧ (xNat s rd = 0 ∨ 2 ^ 64 ≤ xNat s rd)
  | 8 => op = 0x10 ∧ explicit ∧
         ∃ c < wselChannels wsel, xNat s (rs1 + c) = 0 ∨ wselModulus wsel ≤ xNat s (rs1 + c)
  | 9 => (op = 0x01 ∧ p * p ≤ pairNat s rs1) ∨
         ((op = 0x02 ∨ op = 0x03) ∧ (p ≤ xNat s rs1 ∨ p ≤ xNat s rs2 ∨ p ≤ xNat s rs3)) ∨
         ((op = 0x04 ∨ op = 0x05) ∧ p ≤ xNat s rs1) ∨
         ((op = 0x20 ∨ op = 0x21) ∧ FpOutOfRange s) ∨
         (op = 0x33 ∧ ∃ c < s.channels, s.modulus ≤ xNat s (rs1 + c) ∨ s.modulus ≤ xNat s (rs2 + c)) ∨
         (op = 0x34 ∧ (s.modulus ≤ fpNat s 0 ∨ s.modulus ≤ fpNat s 1))
  | _ => False

/-- The code a check of R232 gives. -/
def checkCode : Nat → ErrCode
  | 1 => .illegalOpcode
  | 2 => .illegalField
  | 3 => .badWidth
  | 4 => .notConfigured
  | 5 => .illegalField
  | 6 => .modeMismatch
  | 7 => .badWindow
  | 8 => .badBase
  | 9 => .operandRange
  | _ => .noError

/-- The errors each opcode can raise (60_exceptions.md R247). -/
def errorsOf (op : Nat) : List ErrCode :=
  if op ∈ [0x00, 0x06, 0x30] then [.illegalField]
  else if op ∈ [0x01, 0x02, 0x03, 0x04, 0x05] then [.illegalField, .operandRange]
  else if op = 0x10 then [.illegalField, .badWidth, .badWindow, .badBase]
  else if op ∈ [0x11, 0x31, 0x32] then [.illegalField, .notConfigured]
  else if op ∈ [0x20, 0x21, 0x33] then [.illegalField, .notConfigured, .operandRange]
  else if op = 0x34 then [.illegalField, .notConfigured, .modeMismatch, .operandRange]
  else [.illegalOpcode]

/-! ## Binary64 -/

/-- The number a finite binary64 encoding stands for (IEEE 754; 93_implementation_defined.md G1). -/
def binary64Value (b : BitVec 64) : ℚ :=
  let sign : ℚ := if b.getLsbD 63 then -1 else 1
  let e : ℕ := b.toNat / 2 ^ 52 % 2 ^ 11
  let f : ℕ := b.toNat % 2 ^ 52
  if e = 0 then sign * (f : ℚ) / 2 ^ 1074 else sign * ((2 ^ 52 + f : ℕ) : ℚ) * 2 ^ e / 2 ^ 1075

/-- The encoding is neither infinite nor NaN. -/
def finiteBinary64 (b : BitVec 64) : Prop := b.toNat / 2 ^ 52 % 2 ^ 11 ≠ 2 ^ 11 - 1

/-- ((CFG_TAU - 1) / P)^K, exact (41_table.md R176). -/
def collisionRate (s : State) : ℚ := (((s.cfg.tau.toNat - 1 : ℕ) : ℚ) / (s.modulus : ℚ)) ^ s.channels

/-! ## Classes of commands -/

/-- A command of the roll unit (42_roll.md). -/
def isRoll : Instr → Bool
  | .fill _ | .slide _ _ => true
  | .nop | .reduce _ _ _ | .muladd _ _ _ _ _ | .muladdr _ _ _ _ _ | .pow _ _ _ _ | .inv _ _ _ | .rand _ _
  | .config _ _ _ | .configRandom _ _ | .lookup _ _ _ _ | .fpclr | .fpget _ | .fpput _ | .cmp _ _ _
  | .pack2 _ => false

/-- A command of the arithmetic unit (40_arith.md R140). -/
def isArithmetic : Instr → Bool
  | .reduce _ _ _ | .muladd _ _ _ _ _ | .muladdr _ _ _ _ _ | .pow _ _ _ _ | .inv _ _ _ | .rand _ _ => true
  | .nop | .config _ _ _ | .configRandom _ _ | .lookup _ _ _ _ | .fill _ | .slide _ _ | .fpclr | .fpget _
  | .fpput _ | .cmp _ _ _ | .pack2 _ => false

/-- A command that needs a configuration (60_exceptions.md R232, check 4). -/
def needsConfiguration : Instr → Bool
  | .lookup _ _ _ _ | .fill _ | .slide _ _ | .fpget _ | .fpput _ | .cmp _ _ _ | .pack2 _ => true
  | .nop | .reduce _ _ _ | .muladd _ _ _ _ _ | .muladdr _ _ _ _ _ | .pow _ _ _ _ | .inv _ _ _ | .rand _ _
  | .config _ _ _ | .configRandom _ _ | .fpclr => false

/-- CONFIG, in either form. -/
def isConfig : Instr → Bool
  | .config _ _ _ | .configRandom _ _ => true
  | .nop | .reduce _ _ _ | .muladd _ _ _ _ _ | .muladdr _ _ _ _ _ | .pow _ _ _ _ | .inv _ _ _ | .rand _ _
  | .lookup _ _ _ _ | .fill _ | .slide _ _ | .fpclr | .fpget _ | .fpput _ | .cmp _ _ _ | .pack2 _ => false

/-! ## CONFIG -/

/-- CONFIG with E = 1 (41_table.md R170): its word, its errors in the order of R232, and what it leaves. -/
def ConfigExplicit : Prop :=
  (∀ (w : Word) (s : State), opcode w = 0x10 → bits w 11 1 = 1 → w &&& 0xFF00F8FF ≠ 0x10000800 →
    EngineFails w .illegalField s) ∧
  (∀ (rt rb : Reg) (wsel : Option WSel), HasWord (.config rt rb wsel) (wordC rt rb 1 (wselNumber wsel))) ∧
  (∀ (rt rb : Reg) (s : State), Raises (.config rt rb none) .badWidth s) ∧
  (∀ (rt rb : Reg) (ws : WSel) (s : State),
    (15 < rb.val + ws.channels - 1 → Raises (.config rt rb (some ws)) .illegalField s) ∧
    (rb.val + ws.channels - 1 ≤ 15 → (xNat s rt = 0 ∨ 2 ^ 64 ≤ xNat s rt) →
      Raises (.config rt rb (some ws)) .badWindow s) ∧
    (rb.val + ws.channels - 1 ≤ 15 → xNat s rt ≠ 0 → xNat s rt < 2 ^ 64 →
      (∃ c < ws.channels, xNat s (rb.val + c) = 0 ∨ ws.modulus ≤ xNat s (rb.val + c)) →
      Raises (.config rt rb (some ws)) .badBase s) ∧
    (rb.val + ws.channels - 1 ≤ 15 → xNat s rt ≠ 0 → xNat s rt < 2 ^ 64 →
      (∀ c < ws.channels, xNat s (rb.val + c) ≠ 0 ∧ xNat s (rb.val + c) < ws.modulus) →
      ∃ t, exec (.config rt rb (some ws)) s = .next t ∧ Completes (encode (.config rt rb (some ws))) s t ∧
        HoldsConfiguration ws (xNat s rt) (fun c => xNat s (rb.val + c)) t ∧
        XKeptBut [] s t ∧ FpKept s t ∧ EntropyKept s t))

/-- CONFIG with E = 0 (R170): its word, its errors, and what it leaves for the bases drawn. -/
def ConfigDrawn : Prop :=
  (∀ (w : Word) (s : State), opcode w = 0x10 → bits w 11 1 = 0 → w &&& 0xFF0FF8FF ≠ 0x10000000 →
    EngineFails w .illegalField s) ∧
  (∀ (rt : Reg) (wsel : Option WSel), HasWord (.configRandom rt wsel) (wordC rt 0 0 (wselNumber wsel))) ∧
  (∀ (rt : Reg) (s : State), Raises (.configRandom rt none) .badWidth s) ∧
  (∀ (rt : Reg) (ws : WSel) (s : State),
    ((xNat s rt = 0 ∨ 2 ^ 64 ≤ xNat s rt) → Raises (.configRandom rt (some ws)) .badWindow s) ∧
    (xNat s rt ≠ 0 → xNat s rt < 2 ^ 64 →
      ∃ (t : State) (base : Nat → Nat), exec (.configRandom rt (some ws)) s = .next t ∧
        Completes (encode (.configRandom rt (some ws))) s t ∧
        (∀ c < ws.channels, 1 ≤ base c ∧ base c ≤ ws.modulus - 1) ∧
        HoldsConfiguration ws (xNat s rt) base t ∧ XKeptBut [] s t ∧ FpKept s t))

end Sys2Proof.Spec

open Sys2Proof Sys2Proof.Machine Sys2Proof.Spec

/-! # Encoding -/

/-- Words written out in 95_test_vectors.md (VA1, VA10d, VA14, VA17, VA24, VA30, VT1, VT3, VT16, VR1, VR2, VC1, VC3,
VC11, VC13, P3) stand for the commands the spec writes beside them. -/
def Obligations.WordsOfTheTestVectorsDecode : Prop :=
  decode 0x01020000 = .ok (.reduce 0 2 .w61) ∧
  decode 0x02411103 = .ok (.muladd 4 1 1 1 .w127) ∧
  decode 0x03012300 = .ok (.muladdr 0 1 2 3 .w61) ∧
  decode 0x04012000 = .ok (.pow 0 1 2 .w61) ∧
  decode 0x05010001 = .ok (.inv 0 1 .w89) ∧
  decode 0x06700001 = .ok (.rand 7 .w89) ∧
  decode 0x10010800 = .ok (.config 0 1 (some .w61)) ∧
  decode 0x11304145 = .ok (.lookup 3 0 0x41 0x45) ∧
  decode 0x10000500 = .ok (.configRandom 0 (some .w183)) ∧
  decode 0x20000041 = .ok (.fill 0x41) ∧
  decode 0x21004145 = .ok (.slide 0x41 0x45) ∧
  decode 0x31400000 = .ok (.fpget 4) ∧
  decode 0x33C4A000 = .ok (.cmp 12 4 10) ∧
  decode 0x30000000 = .ok .fpclr ∧
  decode 0x32090000 = .ok (.fpput 9) ∧
  decode 0x34800000 = .ok (.pack2 8) ∧
  decode 0x00000000 = .ok .nop ∧
  decode 0x10010F00 = .ok (.config 0 1 none) ∧
  decode 0x01030000 = .error .illegalField ∧
  decode 0x07000000 = .error .illegalOpcode

/-- Every well-formed command, with every operand at every value, is what the decoder reads from its word. -/
def Obligations.DecodeOfEncodeIsTheCommand : Prop :=
  ∀ i : Instr, i.wf = true → decode (encode i) = .ok i

/-- A word the decoder reads is the word of the command it reads, and that command is well formed: no two words mean
the same command, and ERRCMD and LASTCMD, which the meanings take from the command, hold the word the host wrote (log entry 8). -/
def Obligations.EncodeOfDecodeIsTheWord : Prop :=
  ∀ (w : Word) (i : Instr), decode w = .ok i → i.wf = true ∧ encode i = w

/-- R111: a word is a legal encoding of a row's command exactly when (w AND mask) = match for the row; every other word
with an assigned opcode ends in ILLEGAL_FIELD, and CONFIG's wsel = 7 in BAD_WIDTH instead. -/
def Obligations.LegalWordsAreTheRowsOfTheTable : Prop :=
  (∀ w : Word, ∀ r ∈ rows,
    (w &&& r.2.2.1 = r.2.2.2 ↔ ∃ i, decode w = .ok i ∧ i.mnemonic = r.1)) ∧
  (∀ (w : Word) (s : State), opcode w ∈ assigned → (∀ r ∈ rows, w &&& r.2.2.1 ≠ r.2.2.2) →
    EngineFails w .illegalField s) ∧
  (∀ (w : Word) (s : State), opcode w = 0x10 → bits w 8 3 = 7 → (∃ r ∈ rows, w &&& r.2.2.1 = r.2.2.2) →
    EngineFails w .badWidth s)

/-- R110: every word whose opcode is reserved ends in ILLEGAL_OPCODE. -/
def Obligations.ReservedOpcodesEndInIllegalOpcode : Prop :=
  ∀ (w : Word) (s : State),
    ((0x07 ≤ opcode w ∧ opcode w ≤ 0x0F) ∨ (0x12 ≤ opcode w ∧ opcode w ≤ 0x1F) ∨
      (0x22 ≤ opcode w ∧ opcode w ≤ 0x2F) ∨ 0x35 ≤ opcode w) →
    EngineFails w .illegalOpcode s

/-! # The step -/

/-- When the engine's turn comes (nothing ahead, a completion ahead, or a held access ahead), step is exec of the
command the busy word decodes to; and a word that is no command ends in its error. The events ahead and withFetchWord are
the model's choice (log entries 1 and 2). -/
def Obligations.StepRunsTheDecodedCommand : Prop :=
  (∀ (s : State) (w : Word) (i : Instr), s.busy = some w → decode w = .ok i →
    (s.agenda = [] → step s = exec i s) ∧
    (∀ rest, s.agenda = .complete :: rest → step s = exec i { s with agenda := rest }) ∧
    (∀ a rest, s.agenda = .access a :: rest → Aligned a → heldOffset a.addr.toNat = true → step s = exec i s)) ∧
  (∀ (s : State) (w : Word) (i : Instr), decode w = .ok i →
    step (s.withFetchWord 32 w.toNat) = exec i { s with busy := some w }) ∧
  (∀ (s : State) (w : Word) (e : ErrCode), s.busy = some w → decode w = .error e → s.agenda = [] →
    ∃ t, step s = .next t ∧ EndsInError w e s t)

/-- Nothing stops the machine (log entry 15): every state has a next state. For a state busy with RAND or a CONFIG that
draws its bases this rests on the model's choices: the entropy source is taken to be fair (log entry 12; the spec lets the
command wait for it, 70_reset_and_hazards.md R270), and with nothing ahead the busy command ends (log entry 1). -/
def Obligations.EveryStepAnswersANextState : Prop :=
  ∀ s : State, ∃ t, step s = .next t

/-- R232: a command is checked in the order of the nine checks; the first check that fails gives the code, with the error
record of R233 and nothing else written; if none fails the command completes with the record of R236. For RAND and for
CONFIG with E = 0 that last clause is the model's: the entropy source is taken to be fair (log entry 12). -/
def Obligations.FirstFailingCheckGivesTheCode : Prop :=
  ∀ (s : State) (w : Word), s.busy = some w →
    (∀ n, 1 ≤ n → n ≤ 9 → checkFails n w s → (∀ m, 1 ≤ m → m < n → ¬ checkFails m w s) →
      EngineFails w (checkCode n) s) ∧
    ((∀ n, 1 ≤ n → n ≤ 9 → ¬ checkFails n w s) → ∃ t, engineStep s = .next t ∧ Completes w s t)

/-- R247: the errors each opcode can raise are exactly those of its row: each is raised by some word in some state, and
no other ever. -/
def Obligations.CommandsRaiseExactlyTheErrorsOfTheirRow : Prop :=
  ∀ (op : Nat) (e : ErrCode), op < 256 →
    ((∃ (w : Word) (s t : State), opcode w = op ∧ s.busy = some w ∧ s.err = false ∧
      engineStep s = .next t ∧ t.err = true ∧ t.errCode = e) ↔ e ∈ errorsOf op)

/-- R38, R234: a CMD write waits while a command is busy; while ERR = 1 it completes at once and its word is discarded,
nothing of the engine changing; else its word becomes the busy command
and BUSY becomes 1, and the engine then executes the word by the rule of its opcode. -/
def Obligations.CmdWriteOffersTheCommand : Prop :=
  ∀ (s : State) (w : Word) (rest : List Event), s.agenda = memWrite 0x00C w :: rest →
    (s.busy ≠ none → step s = engineStep s) ∧
    (s.busy = none → s.err = true → step s = .next (answered s rest none false)) ∧
    (s.busy = none → s.err = false → ∃ t, step s = .next t ∧
      t = { answered s rest none false with busy := some w } ∧ t.busyBit = true ∧
      (∀ i, decode w = .ok i → engineStep t = exec i t) ∧ ∀ e, decode w = .error e → EngineFails w e t)

/-- R235: a STATUS write with bit 2 = 1 sets ERR and ERRCODE to 0 and keeps ERRCMD; a reset clears them too; nothing
else clears either. -/
def Obligations.ErrIsClearedOnlyByTheHostOrReset : Prop :=
  (∀ (s : State) (v : Word) (rest : List Event), s.agenda = memWrite 0x008 v :: rest → v.getLsbD 2 = true →
    ∃ t, step s = .next t ∧ t.err = false ∧ t.errCode = .noError ∧ t.errCmd = s.errCmd) ∧
  (∀ (s t : State) (e : Event) (rest : List Event), s.agenda = e :: rest → IsReset e → step s = .next t →
    t.err = false ∧ t.errCode = .noError) ∧
  (∀ s t : State, step s = .next t →
    (s.err = true ∧ t.err = false) ∨ (s.errCode ≠ .noError ∧ t.errCode = .noError) →
    ∃ e rest, s.agenda = e :: rest ∧ (IsReset e ∨ StatusWrite 2 e))

/-- R37: DONE is set by every command that completes and by nothing else; it stays 1 until the host clears it or a
reset. -/
def Obligations.DoneIsSetOnlyByCompletion : Prop :=
  (∀ s t : State, step s = .next t → s.done = false → t.done = true →
    ∃ w i, s.busy = some w ∧ decode w = .ok i ∧ t.lastCmd = w ∧ t.busy = none ∧ t.err = s.err) ∧
  (∀ s t : State, step s = .next t → s.done = true → t.done = false →
    ∃ e rest, s.agenda = e :: rest ∧ (IsReset e ∨ StatusWrite 3 e)) ∧
  (∀ (s t : State) (i : Instr), exec i s = .next t → s.err = false → t.err = false → t.done = true) ∧
  (∀ (s t : State) (i : Instr), exec i s = .next t → s.err = false → t.err = true → t.done = s.done)

/-! # The host port -/

/-- R63: an access that is not an aligned 4-byte access completes with a bus error, has no other effect, reads 0, and
never waits. -/
def Obligations.MisalignedAccessesGetABusError : Prop :=
  ∀ (s : State) (a : Access) (rest : List Event), s.agenda = .access a :: rest →
    (a.size ≠ 2 ∨ a.addr.toNat % 4 ≠ 0) →
    step s = .next (answered s rest (if a.write then none else some 0) true)

/-- R67: a read of a reserved offset returns 0, a write to one is ignored; neither gets a bus error nor waits. -/
def Obligations.ReservedOffsetsReadZeroAndIgnoreWrites : Prop :=
  ∀ (s : State) (a : Access) (rest : List Event), s.agenda = .access a :: rest → Aligned a →
    reservedOffset a.addr.toNat = true →
    step s = .next (answered s rest (if a.write then none else some 0) false)

/-- R68: a write to a read-only register is ignored, completes without a bus error, and waits while busy exactly as a
read of that register would. -/
def Obligations.WritesToReadOnlyRegistersAreIgnored : Prop :=
  ∀ (s : State) (a : Access) (rest : List Event), s.agenda = .access a :: rest → Aligned a → a.write = true →
    readOnlyOffset a.addr.toNat = true →
    (s.busy = none ∨ a.addr.toNat = 0x000 → step s = .next (answered s rest none false)) ∧
    (s.busy ≠ none → a.addr.toNat ≠ 0x000 → step s = engineStep s)

/-- R69: a read changes nothing but the port's answer, and the same read again gives the same answer. -/
def Obligations.ReadsHaveNoSideEffect : Prop :=
  ∀ (s : State) (a : Access) (rest : List Event), s.agenda = .access a :: .access a :: rest → a.write = false →
    s.busy = none →
    ∃ r, step s = .next { s with agenda := .access a :: rest, response := some r } ∧
      step { s with agenda := .access a :: rest, response := some r }
        = .next { s with agenda := rest, response := some r }

/-- R69, writes: a write other than a CMD write, made twice in a row, leaves exactly what it leaves made once. -/
def Obligations.WritesAreIdempotent : Prop :=
  ∀ (s : State) (a : Access) (rest : List Event), s.agenda = .access a :: .access a :: rest → a.write = true →
    ¬ (Aligned a ∧ a.addr.toNat = 0x00C) → s.busy = none →
    ∃ t, step s = .next t ∧ step t = .next { t with agenda := rest }

/-- R70: while a command is busy, an access to a held offset does not complete: the busy command ends first, against the
same state, and the access then completes; every other access completes at once, the command still busy unless it is the
soft reset. The events ahead are the model's choice (log entry 1), and so is that a busy RAND or CONFIG with E = 0 ends
then: the entropy source is taken to be fair (log entry 12). -/
def Obligations.HeldAccessesWaitForTheBusyCommand : Prop :=
  ∀ (s : State) (w : Word) (a : Access) (rest : List Event), s.busy = some w → s.agenda = .access a :: rest →
    (Aligned a → heldOffset a.addr.toNat = true →
      ∃ t u, step s = .next t ∧ engineStep s = .next t ∧ t.agenda = s.agenda ∧ t.response = s.response ∧
        t.busy = none ∧ step t = .next u ∧ u.agenda = rest ∧ u.response ≠ none) ∧
    (¬ (Aligned a ∧ heldOffset a.addr.toNat = true) →
      ∃ t, step s = .next t ∧ t.agenda = rest ∧ t.response ≠ none ∧
        (t.busy = some w ∨ IsReset (.access a)))

/-- R75: a STATUS read right after the CMD write shows BUSY = 1, and one after the command's completion BUSY = 0; both
orders are possible. The events ahead are the model's choice (log entry 1), and so is that a RAND or CONFIG with E = 0 has
completed at its completion event whatever the entropy source offered (log entry 12). -/
def Obligations.StatusReadShowsBothOrders : Prop :=
  ∀ (s : State) (w : Word) (rest : List Event), s.busy = none → s.err = false →
    (s.agenda = memWrite 0x00C w :: memRead 0x008 :: rest →
      ∃ t u v, step s = .next t ∧ step t = .next u ∧ u.response = some ⟨some v, false⟩ ∧ bits v 0 1 = 1) ∧
    (s.agenda = memWrite 0x00C w :: .complete :: memRead 0x008 :: rest →
      ∃ t t' u v, step s = .next t ∧ step t = .next t' ∧ step t' = .next u ∧
        u.response = some ⟨some v, false⟩ ∧ bits v 0 1 = 0)

/-- R71, R260, R262: a soft reset and a hardware reset leave the reset state of R261; a busy command has none of its
effects; the soft reset's own write is answered, a moment of rst_n answers no access. After either, an access that was
waiting completes against the reset state: it has its effect on that state, a read answers the constant of ID or 0, and a
CMD write offers its word to the reset engine, which accepts it. A reset together with the completion wins, whichever of
the two comes first. -/
def Obligations.ResetAbortsTheBusyCommand : Prop :=
  (∀ (s : State) (v : Word) (rest : List Event), s.agenda = memWrite 0x004 v :: rest → v.getLsbD 0 = true →
    ∃ t, step s = .next t ∧ ResetFrom s t ∧ t.agenda = rest ∧ t.response = some ⟨none, false⟩) ∧
  (∀ (s : State) (rest : List Event), s.agenda = .resetLow :: rest →
    ∃ t, step s = .next t ∧ ResetFrom s t ∧ t.agenda = rest ∧ t.response = s.response) ∧
  (∀ (s : State) (e : Event) (w : Word) (rest : List Event), IsReset e → s.agenda = e :: memWrite 0x00C w :: rest →
    ∃ t, step s = .next t ∧ ResetFrom s t ∧ step t = .next { answered t rest none false with busy := some w }) ∧
  (∀ (s : State) (e : Event) (a : Access) (rest : List Event), IsReset e → s.agenda = e :: .access a :: rest →
    ∃ t u, step s = .next t ∧ ResetFrom s t ∧ step t = .next u ∧
      u = { t with agenda := rest }.completeAccess a ∧ u.agenda = rest ∧
      (¬ Aligned a → u = answered t rest (if a.write then none else some 0) true) ∧
      (Aligned a → a.write = true → u.response = some ⟨none, false⟩) ∧
      (Aligned a → a.write = false →
        u = answered t rest (some (if a.addr.toNat = 0x000 then 0x4B524D07 else 0)) false)) ∧
  (∀ (s : State) (e : Event) (rest : List Event), IsReset e → s.agenda = e :: .complete :: rest →
    ∃ t, step s = .next t ∧ ResetFrom s t ∧ step t = .next { t with agenda := rest }) ∧
  (∀ (s t : State) (e : Event) (rest : List Event), IsReset e → s.agenda = .complete :: e :: rest →
    step s = .next t → ∃ u, step t = .next u ∧ ResetFrom t u ∧ u.agenda = rest)

/-- R261: every register has its reset value, ID its constant, irq is 0; and no command reads a table entry. -/
def Obligations.ResetStateReadsAsTheSpecSays : Prop :=
  ResetFrom State.reset State.reset ∧ State.reset.busyBit = false ∧ State.reset.irq = false ∧
  ReadsAs { State.reset with agenda := [memRead 0x000] } 0x000 0x4B524D07 ∧
  ReadsAs { State.reset with agenda := [memRead 0x008] } 0x008 0 ∧
  ReadsAs { State.reset with agenda := [memRead 0x00C] } 0x00C 0 ∧
  (∀ (rd : Reg) (ch : Chan) (a b : Byte), Raises (.lookup rd ch a b) .notConfigured State.reset) ∧
  ∀ a b : Byte, Raises (.slide a b) .notConfigured State.reset

/-- R33: the fields of STATUS as a read shows them (it never waits), and what a write of it does: bit 2 clears ERR and
ERRCODE, bit 3 clears DONE, every other bit nothing. ERRCODE is 0 while ERR = 0; after reset every field reads 0. -/
def Obligations.StatusRegisterFields : Prop :=
  (∀ s : State, ReadsAs s 0x008 (BitVec.ofNat 32
    (s.busyBit.toNat + s.cfg.valid.toNat * 2 + s.err.toNat * 4 + s.done.toNat * 8
      + s.errCode.code.toNat * 2 ^ 8))) ∧
  (∀ (s : State) (v : Word) (rest : List Event), s.agenda = memWrite 0x008 v :: rest →
    step s = .next { answered s rest none false with
      err := s.err && !v.getLsbD 2
      errCode := if v.getLsbD 2 then .noError else s.errCode
      done := s.done && !v.getLsbD 3 }) ∧
  (∀ s : State, (s.busyBit = true ↔ s.busy ≠ none) ∧ (Inv s → s.err = false → s.errCode = .noError)) ∧
  ∀ s t : State, ResetFrom s t → ReadsAs t 0x008 0

/-- R32: CTRL reads its two enables, SRST and the reserved bits as 0; a write without SRST stores the enables and does
nothing else; after a write with SRST both enables are 0. CTRL is reached while the engine is busy. Each enable lets its STATUS bit
drive irq. -/
def Obligations.CtrlRegisterFields : Prop :=
  (∀ s : State, ReadsAs s 0x004 (BitVec.ofNat 32 (s.errIe.toNat * 2 + s.doneIe.toNat * 4))) ∧
  (∀ (s : State) (v : Word) (rest : List Event), s.agenda = memWrite 0x004 v :: rest → v.getLsbD 0 = false →
    step s = .next { answered s rest none false with errIe := v.getLsbD 1, doneIe := v.getLsbD 2 }) ∧
  (∀ (s : State) (v : Word) (rest : List Event), s.agenda = memWrite 0x004 v :: rest → v.getLsbD 0 = true →
    ∃ t, step s = .next t ∧ t.errIe = false ∧ t.doneIe = false ∧ ResetFrom s t) ∧
  (∀ s t : State, ResetFrom s t → ReadsAs t 0x004 0) ∧
  ∀ s : State, (s.err = true → s.errIe = true → s.irq = true) ∧ (s.done = true → s.doneIe = true → s.irq = true) ∧
    (s.errIe = false → s.doneIe = false → s.irq = false)

/-- R31, R41, R42, R44, R45: ID reads its constant in every state, busy or not. CFG_INFO, CFG_TAU, and word j of
CFG_BASE[c] and CFG_MAXEXP[c] as an idle engine's host reads them; a channel c ≥ K reads 0. R43, whose value of CRATE
CrateIsTheNearestBinary64 states (log entry 11): its low word stands at 0x020 and its high word at 0x024, and both read 0
while not configured. A write of any of these is ignored. -/
def Obligations.IntrospectionRegistersShowTheConfiguration : Prop :=
  (∀ s : State, ReadsAs s 0x000 0x4B524D07 ∧
    ∀ (v : Word) (rest : List Event), s.agenda = memWrite 0x000 v :: rest → step s = .next (answered s rest none false)) ∧
  (∀ s : State, s.busy = none →
    (s.cfg.valid = true → ReadsAs s 0x014 (BitVec.ofNat 32
      (s.cfg.wsel.width.bits * s.channels + s.cfg.wsel.width.bits * 2 ^ 8 + s.channels * 2 ^ 16
        + wselNumber (some s.cfg.wsel) * 2 ^ 20))) ∧
    (s.cfg.valid = false → ReadsAs s 0x014 0) ∧
    ReadsAs s 0x018 (BitVec.ofNat 32 (s.cfg.tau.toNat % 2 ^ 32)) ∧
    ReadsAs s 0x01C (BitVec.ofNat 32 (s.cfg.tau.toNat / 2 ^ 32)) ∧
    (Inv s → s.cfg.valid = false → ReadsAs s 0x018 0 ∧ ReadsAs s 0x01C 0) ∧
    ReadsAs s 0x020 (BitVec.ofNat 32 (s.crate.toNat % 2 ^ 32)) ∧
    ReadsAs s 0x024 (BitVec.ofNat 32 (s.crate.toNat / 2 ^ 32)) ∧
    (s.cfg.valid = false → ReadsAs s 0x020 0 ∧ ReadsAs s 0x024 0) ∧
    ∀ c < 4, ∀ j < 4,
      ReadsAs s (0x300 + 16 * c + 4 * j) (BitVec.ofNat 32 ((s.base c).toNat / 2 ^ (32 * j) % 2 ^ 32)) ∧
      ReadsAs s (0x340 + 16 * c + 4 * j) (BitVec.ofNat 32 ((s.maxExp c).toNat / 2 ^ (32 * j) % 2 ^ 32)) ∧
      (Inv s → s.channels ≤ c →
        ReadsAs s (0x300 + 16 * c + 4 * j) 0 ∧ ReadsAs s (0x340 + 16 * c + 4 * j) 0) ∧
      (Inv s → s.cfg.valid = true → c < s.channels →
        (s.maxExp c).toNat = (s.base c).toNat ^ s.cfg.tau.toNat % s.modulus)) ∧
  (∀ (s : State) (v : Word) (rest : List Event) (off : Nat), s.busy = none → off % 4 = 0 →
    (0x014 ≤ off ∧ off < 0x028 ∨ 0x300 ≤ off ∧ off < 0x380) →
    s.agenda = memWrite off v :: rest → step s = .next (answered s rest none false))

/-- R39, R40: a read of CMD returns LASTCMD, the word of the last command that completed, and a read of ERRCMD the word
of the last that ended in error; both wait while the engine is busy; a write to ERRCMD is ignored; nothing but a
completion or a reset changes LASTCMD, nothing but an error or a reset ERRCMD, and a reset makes both 0. -/
def Obligations.CmdAndErrcmdReadTheRecords : Prop :=
  (∀ s : State, s.busy = none → ReadsAs s 0x00C s.lastCmd ∧ ReadsAs s 0x010 s.errCmd ∧
    ∀ (v : Word) (rest : List Event), s.agenda = memWrite 0x010 v :: rest →
      step s = .next (answered s rest none false)) ∧
  (∀ (s : State) (rest : List Event), s.busy ≠ none →
    s.agenda = memRead 0x00C :: rest ∨ s.agenda = memRead 0x010 :: rest → step s = engineStep s) ∧
  (∀ (s t : State) (i : Instr), exec i s = .next t → s.err = false →
    (t.err = false → t.lastCmd = encode i ∧ t.errCmd = s.errCmd) ∧
    (t.err = true → t.errCmd = encode i ∧ t.lastCmd = s.lastCmd)) ∧
  (∀ s t : State, step s = .next t → t.lastCmd ≠ s.lastCmd →
    (s.busy = some t.lastCmd ∧ t.done = true) ∨
    (t.lastCmd = 0 ∧ ∃ e rest, s.agenda = e :: rest ∧ IsReset e)) ∧
  (∀ s t : State, step s = .next t → t.errCmd ≠ s.errCmd →
    (s.busy = some t.errCmd ∧ t.err = true) ∨ (t.errCmd = 0 ∧ ∃ e rest, s.agenda = e :: rest ∧ IsReset e)) ∧
  ∀ (s t : State) (e : Event) (rest : List Event), s.agenda = e :: rest → IsReset e → step s = .next t →
    t.lastCmd = 0 ∧ t.errCmd = 0

/-- R46: a host write of word j of X[i] or FP[c] replaces bits [32j+31:32j] and leaves the other 96, every other register
and everything else unchanged; a read returns those bits; while the engine is busy the access waits. So the host's
pseudo-operations (30_encoding.md R118) move whole registers: WRX and WRFP leave the value they name, and RDX and RDFP
return the register, word 3 highest, as the busy command leaves it where there is one. -/
def Obligations.RegisterWindowsWriteOneWord : Prop :=
  (∀ (s : State) (a : Access) (rest : List Event), s.busy ≠ none → s.agenda = .access a :: rest → Aligned a →
    0x100 ≤ a.addr.toNat → a.addr.toNat < 0x240 → step s = engineStep s) ∧
  (∀ (s : State) (v : Word) (rest : List Event) (j : Nat), s.busy = none → j < 4 →
    (∀ i < 16, ReadsAs s (0x100 + 16 * i + 4 * j) (BitVec.ofNat 32 (xNat s i / 2 ^ (32 * j) % 2 ^ 32)) ∧
      (s.agenda = memWrite (0x100 + 16 * i + 4 * j) v :: rest →
        ∃ t, step s = .next t ∧ t = { answered s rest none false with x := t.x } ∧ XKeptBut [i] s t ∧
          xNat t i / 2 ^ (32 * j) % 2 ^ 32 = v.toNat ∧
          ∀ k < 4, k ≠ j → xNat t i / 2 ^ (32 * k) % 2 ^ 32 = xNat s i / 2 ^ (32 * k) % 2 ^ 32)) ∧
    (∀ c < 4, ReadsAs s (0x200 + 16 * c + 4 * j) (BitVec.ofNat 32 (fpNat s c / 2 ^ (32 * j) % 2 ^ 32)) ∧
      (s.agenda = memWrite (0x200 + 16 * c + 4 * j) v :: rest →
        ∃ t, step s = .next t ∧ t = { answered s rest none false with fp := t.fp } ∧
          (∀ c' < 4, c' ≠ c → t.getFp c' = s.getFp c') ∧
          fpNat t c / 2 ^ (32 * j) % 2 ^ 32 = v.toNat ∧
          ∀ k < 4, k ≠ j → fpNat t c / 2 ^ (32 * k) % 2 ^ 32 = fpNat s c / 2 ^ (32 * k) % 2 ^ 32))) ∧
  (∀ (s : State) (i : Reg) (c : Chan), s.busy = none →
    rdxResult i s = some (s.getX i) ∧ rdfpResult c s = some (s.getFp c)) ∧
  (∀ (s t : State) (i : Reg), s.busy ≠ none → engineStep (s.withAgenda (rdx i ++ s.agenda)) = .next t →
    rdxResult i s = some (t.getX i)) ∧
  (∀ (s t : State) (c : Chan), s.busy ≠ none → engineStep (s.withAgenda (rdfp c ++ s.agenda)) = .next t →
    rdfpResult c s = some (t.getFp c)) ∧
  ∀ (s : State) (i : Reg) (c : Chan) (v : Val) (rest : List Event), s.busy = none →
    (s.agenda = wrx i v ++ rest → ∃ t : State, Host.Core.run Sys2Proof.core 4 s = .next t ∧
      t = { answered s rest none false with x := t.x } ∧ t.getX i = v ∧ XKeptBut [i.val] s t) ∧
    (s.agenda = wrfp c v ++ rest → ∃ t : State, Host.Core.run Sys2Proof.core 4 s = .next t ∧
      t = { answered s rest none false with fp := t.fp } ∧ t.getFp c = v ∧
      ∀ c' < 4, c' ≠ c.val → t.getFp c' = s.getFp c')

/-- R237: irq is the level (ERR ∧ ERR_IE) ∨ (DONE ∧ DONE_IE); clearing an enable masks a source without clearing it; a
source is cleared by its STATUS bit or a reset, and nothing else makes irq fall. -/
def Obligations.IrqIsTheLevelOfTheEnabledSources : Prop :=
  ∀ s : State,
    (s.irq = true ↔ (s.err = true ∧ s.errIe = true) ∨ (s.done = true ∧ s.doneIe = true)) ∧
    (∀ (v : Word) (rest : List Event), s.agenda = memWrite 0x004 v :: rest → v.getLsbD 0 = false →
      v.getLsbD 1 = false → v.getLsbD 2 = false →
      ∃ t, step s = .next t ∧ t.irq = false ∧ t.err = s.err ∧ t.done = s.done) ∧
    (∀ (v : Word) (rest : List Event), s.agenda = memWrite 0x008 v :: rest → v.getLsbD 2 = true →
      v.getLsbD 3 = true → ∃ t, step s = .next t ∧ t.irq = false) ∧
    (∀ t, step s = .next t → s.irq = true → t.irq = false →
      ∃ e rest, s.agenda = e :: rest ∧ (IsReset e ∨ StatusWrite 2 e ∨ StatusWrite 3 e ∨ CtrlWrite e))

/-! # The arithmetic unit -/

/-- R116: NOP changes nothing but the completion record; its only legal word is 0. -/
def Obligations.NopOnlyCompletes : Prop :=
  RejectsBadFields 0x00 0xFFFFFFFF 0x00000000 ∧ HasWord .nop 0x00000000 ∧
  ∀ s : State, ∃ t, exec .nop s = .next t ∧ Completes 0x00000000 s t ∧ XKeptBut [] s t ∧ FpKept s t ∧
    CfgKept s t ∧ EntropyKept s t

/-- R142: REDUCE writes the pair's value mod p, for a pair below p², and raises OPERAND_RANGE for any other; the low
register of the pair is even. -/
def Obligations.ReduceWritesTheResidue : Prop :=
  RejectsBadFields 0x01 0xFF01FFFC 0x01000000 ∧
  ∀ (rd rs1 : Reg) (sw : Width), rs1.val % 2 = 0 →
    HasWord (.reduce rd rs1 sw) (wordR 0x01 rd rs1 0 0 (swNumber sw)) ∧
    ∀ s : State,
      (sw.modulus * sw.modulus ≤ pairNat s rs1 → Raises (.reduce rd rs1 sw) .operandRange s) ∧
      (pairNat s rs1 < sw.modulus * sw.modulus →
        ∃ t, exec (.reduce rd rs1 sw) s = .next t ∧ Completes (encode (.reduce rd rs1 sw)) s t ∧
          xNat t rd = pairNat s rs1 % sw.modulus ∧ XKeptBut [rd.val] s t ∧ FpKept s t ∧ CfgKept s t ∧
          EntropyKept s t)

/-- R143: for every v < p² the value after two folds lies in [0, p], and with p corrected to 0 it is v mod p. -/
def Obligations.TwoFoldsAndACorrectionReduce : Prop :=
  ∀ (sw : Width) (v : Nat), v < sw.modulus * sw.modulus →
    fold sw.bits v < 2 ^ (sw.bits + 1) ∧ fold sw.bits (fold sw.bits v) ≤ sw.modulus ∧
    foldReduce sw v = v % sw.modulus

/-- R144: MULADD writes the exact a·b + c into the pair, for field operands, and raises OPERAND_RANGE for any other; the
low register of the pair is even. Sources are read first, so any register may be named twice. -/
def Obligations.MuladdWritesTheExactSum : Prop :=
  RejectsBadFields 0x02 0xFF1000FC 0x02000000 ∧
  ∀ (rd rs1 rs2 rs3 : Reg) (sw : Width), rd.val % 2 = 0 →
    HasWord (.muladd rd rs1 rs2 rs3 sw) (wordR 0x02 rd rs1 rs2 rs3 (swNumber sw)) ∧
    ∀ s : State,
      ((sw.modulus ≤ xNat s rs1 ∨ sw.modulus ≤ xNat s rs2 ∨ sw.modulus ≤ xNat s rs3) →
        Raises (.muladd rd rs1 rs2 rs3 sw) .operandRange s) ∧
      (xNat s rs1 < sw.modulus → xNat s rs2 < sw.modulus → xNat s rs3 < sw.modulus →
        ∃ t, exec (.muladd rd rs1 rs2 rs3 sw) s = .next t ∧
          Completes (encode (.muladd rd rs1 rs2 rs3 sw)) s t ∧
          pairNat t rd = xNat s rs1 * xNat s rs2 + xNat s rs3 ∧
          XKeptBut [rd.val, rd.val + 1] s t ∧ FpKept s t ∧ CfgKept s t ∧ EntropyKept s t)

/-- R145: MULADDR writes (a·b + c) mod p, for field operands, and raises OPERAND_RANGE for any other. -/
def Obligations.MuladdrWritesTheResidueOfTheSum : Prop :=
  RejectsBadFields 0x03 0xFF0000FC 0x03000000 ∧
  ∀ (rd rs1 rs2 rs3 : Reg) (sw : Width),
    HasWord (.muladdr rd rs1 rs2 rs3 sw) (wordR 0x03 rd rs1 rs2 rs3 (swNumber sw)) ∧
    ∀ s : State,
      ((sw.modulus ≤ xNat s rs1 ∨ sw.modulus ≤ xNat s rs2 ∨ sw.modulus ≤ xNat s rs3) →
        Raises (.muladdr rd rs1 rs2 rs3 sw) .operandRange s) ∧
      (xNat s rs1 < sw.modulus → xNat s rs2 < sw.modulus → xNat s rs3 < sw.modulus →
        ∃ t, exec (.muladdr rd rs1 rs2 rs3 sw) s = .next t ∧
          Completes (encode (.muladdr rd rs1 rs2 rs3 sw)) s t ∧
          xNat t rd = (xNat s rs1 * xNat s rs2 + xNat s rs3) % sw.modulus ∧
          XKeptBut [rd.val] s t ∧ FpKept s t ∧ CfgKept s t ∧ EntropyKept s t)

/-- R146: the pair MULADD writes is always a legal REDUCE input, at most p² - p, and REDUCE of it gives what MULADDR
gives. -/
def Obligations.ReduceOfMuladdIsMuladdr : Prop :=
  ∀ (s : State) (rd rq rs1 rs2 rs3 : Reg) (sw : Width), rd.val % 2 = 0 →
    xNat s rs1 < sw.modulus → xNat s rs2 < sw.modulus → xNat s rs3 < sw.modulus →
    ∃ t u v, exec (.muladd rd rs1 rs2 rs3 sw) s = .next t ∧
      pairNat t rd ≤ sw.modulus * sw.modulus - sw.modulus ∧
      exec (.reduce rq rd sw) t = .next u ∧ Completes (encode (.reduce rq rd sw)) t u ∧
      exec (.muladdr rq rs1 rs2 rs3 sw) s = .next v ∧ u.getX rq = v.getX rq

/-- R148: POW writes x^e mod p for a field operand x and any 128-bit e, x^0 being 1 for every x; x ≥ p raises
OPERAND_RANGE, and e is never checked. -/
def Obligations.PowWritesThePower : Prop :=
  RejectsBadFields 0x04 0xFF000FFC 0x04000000 ∧
  ∀ (rd rs1 rs2 : Reg) (sw : Width),
    HasWord (.pow rd rs1 rs2 sw) (wordR 0x04 rd rs1 rs2 0 (swNumber sw)) ∧
    ∀ s : State,
      (sw.modulus ≤ xNat s rs1 → Raises (.pow rd rs1 rs2 sw) .operandRange s) ∧
      (xNat s rs1 < sw.modulus →
        ∃ t, exec (.pow rd rs1 rs2 sw) s = .next t ∧ Completes (encode (.pow rd rs1 rs2 sw)) s t ∧
          xNat t rd = xNat s rs1 ^ xNat s rs2 % sw.modulus ∧ (xNat s rs2 = 0 → xNat t rd = 1) ∧
          XKeptBut [rd.val] s t ∧ FpKept s t ∧ CfgKept s t ∧ EntropyKept s t)

/-- R149: INV writes x^(p-2) mod p; for 1 ≤ x ≤ p - 1 that is the inverse of x, for 0 it is 0 without an error; x ≥ p
raises OPERAND_RANGE. -/
def Obligations.InvWritesTheInverse : Prop :=
  RejectsBadFields 0x05 0xFF00FFFC 0x05000000 ∧
  ∀ (rd rs1 : Reg) (sw : Width),
    HasWord (.inv rd rs1 sw) (wordR 0x05 rd rs1 0 0 (swNumber sw)) ∧
    ∀ s : State,
      (sw.modulus ≤ xNat s rs1 → Raises (.inv rd rs1 sw) .operandRange s) ∧
      (xNat s rs1 < sw.modulus →
        ∃ t, exec (.inv rd rs1 sw) s = .next t ∧ Completes (encode (.inv rd rs1 sw)) s t ∧
          xNat t rd = xNat s rs1 ^ (sw.modulus - 2) % sw.modulus ∧
          (1 ≤ xNat s rs1 → xNat s rs1 * xNat t rd % sw.modulus = 1) ∧ (xNat s rs1 = 0 → xNat t rd = 0) ∧
          XKeptBut [rd.val] s t ∧ FpKept s t ∧ CfgKept s t ∧ EntropyKept s t)

/-- R150: RAND writes some value of [1, p - 1], whatever words the entropy source has offered, and raises no error but
ILLEGAL_FIELD; any value of the range can be drawn, and after it any other. That it completes in every state is the
model's: R150 lets it wait for the source, which is taken to be fair (log entry 12); so is the list of offered words that
the last clause picks (log entry 3). -/
def Obligations.RandWritesANonzeroElement : Prop :=
  RejectsBadFields 0x06 0xFF0FFFFC 0x06000000 ∧
  (∀ (rd : Reg) (sw : Width),
    HasWord (.rand rd sw) (wordR 0x06 rd 0 0 0 (swNumber sw)) ∧
    ∀ s : State, ∃ t, exec (.rand rd sw) s = .next t ∧ Completes (encode (.rand rd sw)) s t ∧
      1 ≤ xNat t rd ∧ xNat t rd ≤ sw.modulus - 1 ∧ XKeptBut [rd.val] s t ∧ FpKept s t ∧ CfgKept s t) ∧
  ∀ (s : State) (rd rd' : Reg) (sw : Width) (v v' : Nat), 1 ≤ v → v ≤ sw.modulus - 1 → 1 ≤ v' →
    v' ≤ sw.modulus - 1 →
    ∃ es t u, exec (.rand rd sw) { s with rng := es } = .next t ∧ xNat t rd = v ∧
      exec (.rand rd' sw) t = .next u ∧ xNat u rd' = v'

/-- R72: of the words the source offers, the first candidate v = w[s-1:0] with 1 ≤ v ≤ p - 1 is taken and the others
before it are discarded, by RAND and, once for each channel, by CONFIG with E = 0; and every value of [1, p - 1] can be
drawn. The list of offered words is the model's choice (log entry 3). -/
def Obligations.RejectionSamplingTakesTheFirstAcceptableWord : Prop :=
  (∀ (s t : State) (rd : Reg) (sw : Width) (v : Nat) (vs : List Nat), acceptable sw s.rng = v :: vs →
    exec (.rand rd sw) s = .next t → xNat t rd = v ∧ acceptable sw t.rng = vs ∧ t.draws = s.draws) ∧
  (∀ (s t : State) (rt : Reg) (ws : WSel), exec (.configRandom rt (some ws)) s = .next t → s.err = false →
    t.err = false → ws.channels ≤ (acceptable ws.width s.rng).length →
    ∀ c < ws.channels, (t.base c).toNat = (acceptable ws.width s.rng).getD c 0) ∧
  (∀ (s : State) (rd : Reg) (sw : Width) (v : Nat), 1 ≤ v → v ≤ sw.modulus - 1 →
    ∃ es t, exec (.rand rd sw) { s with rng := es } = .next t ∧ xNat t rd = v)

/-- R140: an arithmetic command works whether or not CFG_VALID = 1 and reads no configuration state: two states that
differ in the configuration and FP alone end it the same way, with the same value registers; and it never writes FP or
the configuration. For RAND two things are the model's: that it completes in every state (log entry 12), and that two runs
with the same offered words and the same draw counter draw the same value, the free value being a function of the counter
(log entry 4). -/
def Obligations.ArithmeticIgnoresTheConfiguration : Prop :=
  ∀ (i : Instr) (s : State) (c : Configuration) (f : Vector Val 4), isArithmetic i = true →
    ∃ t, exec i s = .next t ∧ exec i { s with cfg := c, fp := f } = .next { t with cfg := c, fp := f } ∧
      FpKept s t ∧ CfgKept s t

/-! # The table controller -/

/-- R170: CONFIG, with explicit bases and with drawn ones, checks its word, its width, its base tuple, its window and its
bases in that order and then replaces the whole configuration at once; on any error the old one stays in force in full.
That CONFIG with E = 0 completes in every state is the model's: R170 lets it wait for the entropy source, which is taken
to be fair (log entry 12). -/
def Obligations.ConfigBuildsTheWholeConfiguration : Prop := ConfigExplicit ∧ ConfigDrawn

/-- R177: CONFIG with E = 0 draws one base in [1, P - 1] for each channel, related by nothing: any k values of the range
can be the bases, two of them equal or not. The list of offered words that the last clause picks is the model's choice
(log entry 3). -/
def Obligations.ConfigRandomCanDrawAnyBases : Prop :=
  (∀ (s t : State) (rt : Reg) (ws : WSel), exec (.configRandom rt (some ws)) s = .next t → s.err = false →
    t.err = false → ∀ c < ws.channels, 1 ≤ (t.base c).toNat ∧ (t.base c).toNat ≤ ws.modulus - 1) ∧
  ∀ (s : State) (rt : Reg) (ws : WSel) (base : Nat → Nat), xNat s rt ≠ 0 → xNat s rt < 2 ^ 64 →
    (∀ c < ws.channels, 1 ≤ base c ∧ base c ≤ ws.modulus - 1) →
    ∃ es t, exec (.configRandom rt (some ws)) { s with rng := es } = .next t ∧ t.err = s.err ∧
      ∀ c < ws.channels, (t.base c).toNat = base c

/-- R178: no host access and no command other than CONFIG writes the configuration; a step that changes it is a CONFIG
that completes, or a reset. -/
def Obligations.OnlyConfigWritesTheConfiguration : Prop :=
  ∀ s t : State, step s = .next t → t.cfg ≠ s.cfg →
    (∃ w i, s.busy = some w ∧ decode w = .ok i ∧ isConfig i = true ∧ t.cfg.valid = true ∧ t.done = true ∧
      t.lastCmd = w) ∨
    (t.cfg = Configuration.reset ∧ ∃ e rest, s.agenda = e :: rest ∧ IsReset e)

/-- R172, R173: in a configured state every table entry is a field element given by the closed form, T[c][0][b] = b, and
a row is its first entry and then 255 increments mod P. -/
def Obligations.TableEntriesAreRollDeltas : Prop :=
  ∀ (s : State) (c : Nat) (a b : Byte), Inv s → s.cfg.valid = true → c < s.channels →
    (s.entry c a b).toNat
      = (s.modulus - a.toNat * (s.maxExp c).toNat % s.modulus + b.toNat) % s.modulus ∧
    (s.entry c a b).toNat < s.modulus ∧ (s.entry c 0 b).toNat = b.toNat ∧
    (s.entry c a 0).toNat = (s.modulus - a.toNat * (s.maxExp c).toNat % s.modulus) % s.modulus ∧
    (b.toNat < 255 → (s.entry c a (b + 1)).toNat = ((s.entry c a b).toNat + 1) % s.modulus)

/-- R174: LOOKUP writes T[ch][a][b] for a configured channel and changes nothing else; NOT_CONFIGURED without a
configuration, ILLEGAL_FIELD for a channel ≥ K. -/
def Obligations.LookupReadsTheTable : Prop :=
  RejectsBadFields 0x11 0xFF030000 0x11000000 ∧
  ∀ (rd : Reg) (ch : Chan) (a b : Byte),
    HasWord (.lookup rd ch a b) (wordL rd ch a.toNat b.toNat) ∧
    ∀ s : State,
      (s.cfg.valid = false → Raises (.lookup rd ch a b) .notConfigured s) ∧
      (s.cfg.valid = true → s.channels ≤ ch.val → Raises (.lookup rd ch a b) .illegalField s) ∧
      (s.cfg.valid = true → ch.val < s.channels →
        ∃ t, exec (.lookup rd ch a b) s = .next t ∧ Completes (encode (.lookup rd ch a b)) s t ∧
          t.getX rd = s.entry ch a b ∧ XKeptBut [rd.val] s t ∧ FpKept s t ∧ CfgKept s t ∧ EntropyKept s t)

/-- R176: while configured, CRATE is the finite binary64 number nearest to ((CFG_TAU - 1) / P)^K, ties to the even
significand; +0.0 when CFG_TAU = 1, else normal; +0.0 while not configured. The binary64
format is presumed (log entry 11). -/
def Obligations.CrateIsTheNearestBinary64 : Prop :=
  ∀ s : State,
    (s.cfg.valid = false → s.crate = 0) ∧
    (Inv s → s.cfg.valid = true →
      finiteBinary64 s.crate ∧ (s.cfg.tau.toNat = 1 → s.crate = 0) ∧
      (s.cfg.tau.toNat ≠ 1 → s.crate.getLsbD 63 = false ∧ 1 ≤ s.crate.toNat / 2 ^ 52 % 2 ^ 11 ∧
        1 / 2 ^ 245 ≤ collisionRate s ∧ collisionRate s ≤ 2 ^ 13) ∧
      ∀ b, finiteBinary64 b →
        |binary64Value s.crate - collisionRate s| ≤ |binary64Value b - collisionRate s| ∧
        (|binary64Value s.crate - collisionRate s| = |binary64Value b - collisionRate s| →
          binary64Value b ≠ binary64Value s.crate → s.crate.getLsbD 0 = false))

/-! # The roll unit -/

/-- R190, R191: FILL computes base · FP + b mod P in every configured channel and leaves the others; without a
configuration it raises NOT_CONFIGURED, and if any channel's FP is no field element OPERAND_RANGE, with no channel
written. -/
def Obligations.FillRollsEveryChannel : Prop :=
  RejectsBadFields 0x20 0xFFFFFF00 0x20000000 ∧
  ∀ b : Byte,
    HasWord (.fill b) (wordB 0x20 0 b.toNat) ∧
    ∀ s : State,
      (s.cfg.valid = false → Raises (.fill b) .notConfigured s) ∧
      (s.cfg.valid = true → FpOutOfRange s → Raises (.fill b) .operandRange s) ∧
      (s.cfg.valid = true → ¬ FpOutOfRange s →
        ∃ t, exec (.fill b) s = .next t ∧ Completes (encode (.fill b)) s t ∧
          (∀ c < s.channels, fpNat t c = ((s.base c).toNat * fpNat s c + b.toNat) % s.modulus) ∧
          (∀ c < 4, s.channels ≤ c → t.getFp c = s.getFp c) ∧
          XKeptBut [] s t ∧ CfgKept s t ∧ EntropyKept s t)

/-- R190, R193: SLIDE computes base · FP + T[c][a][b] mod P in every configured channel and leaves the others; with the
checks of FILL. -/
def Obligations.SlideRollsEveryChannel : Prop :=
  RejectsBadFields 0x21 0xFFFF0000 0x21000000 ∧
  ∀ a b : Byte,
    HasWord (.slide a b) (wordB 0x21 a.toNat b.toNat) ∧
    ∀ s : State,
      (s.cfg.valid = false → Raises (.slide a b) .notConfigured s) ∧
      (s.cfg.valid = true → FpOutOfRange s → Raises (.slide a b) .operandRange s) ∧
      (s.cfg.valid = true → ¬ FpOutOfRange s →
        ∃ t, exec (.slide a b) s = .next t ∧ Completes (encode (.slide a b)) s t ∧
          (∀ c < s.channels,
            fpNat t c = ((s.base c).toNat * fpNat s c + (s.entry c a b).toNat) % s.modulus) ∧
          (∀ c < 4, s.channels ≤ c → t.getFp c = s.getFp c) ∧
          XKeptBut [] s t ∧ CfgKept s t ∧ EntropyKept s t)

/-- R194: SLIDE computes (β·FP - a·β^tau + b) mod P, with the exponent tau, in every configured channel. -/
def Obligations.SlideIsTheClosedForm : Prop :=
  ∀ (s : State) (a b : Byte), Inv s → s.cfg.valid = true → ¬ FpOutOfRange s →
    ∃ t, exec (.slide a b) s = .next t ∧ t.err = s.err ∧
      ∀ c < s.channels, (fpNat t c : ℤ)
        = (((s.base c).toNat : ℤ) * (fpNat s c : ℤ)
            - (a.toNat : ℤ) * ((s.base c).toNat : ℤ) ^ s.cfg.tau.toNat + (b.toNat : ℤ)) % (s.modulus : ℤ)

/-- R196, the window law: from FPCLR, after m fills the fingerprint is the polynomial of the m bytes, and after tau fills
and any number of slides it is the polynomial of the last tau bytes, in every configured channel, for every stream. -/
def Obligations.WindowLaw : Prop :=
  ∀ (s : State) (x : Nat → Byte), Inv s → s.cfg.valid = true →
    (∀ m, 1 ≤ m → m ≤ s.cfg.tau.toNat →
      ∃ t, execAll (.fpclr :: fills x m) s = .next t ∧ t.err = s.err ∧
        ∀ c < s.channels, fpNat t c = windowPoly s.modulus (s.base c).toNat x 0 m) ∧
    (∀ j, s.cfg.tau.toNat ≤ j →
      ∃ t, execAll (.fpclr :: fills x s.cfg.tau.toNat ++ slides x s.cfg.tau.toNat (j + 1 - s.cfg.tau.toNat)) s
          = .next t ∧ t.err = s.err ∧
        ∀ c < s.channels,
          fpNat t c = windowPoly s.modulus (s.base c).toNat x (j + 1 - s.cfg.tau.toNat) s.cfg.tau.toNat)

/-- R199, round trip: rolling a stream to a window leaves the fingerprints of a fresh fill of that window. -/
def Obligations.RollingEqualsAFreshFill : Prop :=
  ∀ (s : State) (x : Nat → Byte) (i : Nat), Inv s → s.cfg.valid = true →
    ∃ t u, execAll (.fpclr :: fills x s.cfg.tau.toNat ++ slides x s.cfg.tau.toNat i) s = .next t ∧
      execAll (.fpclr :: fills (fun k => x (i + k)) s.cfg.tau.toNat) s = .next u ∧
      t.err = s.err ∧ u.err = s.err ∧ ∀ c < s.channels, t.getFp c = u.getFp c

/-- R195, channels are independent: under any stream of FILL and SLIDE, channel c of a 61-bit configuration goes through
the values a single-field engine with its base, window length and table goes through. -/
def Obligations.ChannelsAreIndependent : Prop :=
  ∀ (s : State) (c : Nat) (rolls : List Instr), Inv s → s.cfg.valid = true → s.cfg.wsel.width = .w61 →
    c < s.channels → ¬ FpOutOfRange s → (∀ i ∈ rolls, isRoll i = true) →
    ∃ t u, execAll rolls s = .next t ∧ execAll rolls (alone c s) = .next u ∧
      t.err = s.err ∧ u.err = s.err ∧ t.getFp c = u.getFp 0

/-- R197: with tau = 1 max_exp is the base and T[c][a][b] = (P - (a · base mod P) + b) mod P; a slide from the window [a]
gives the pushed byte, and from any other FP (β · (FP - a) + b) mod P. -/
def Obligations.WindowOfOneByte : Prop :=
  ∀ (s : State) (a b : Byte), Inv s → s.cfg.valid = true → s.cfg.tau.toNat = 1 →
    (∀ c < s.channels, s.maxExp c = s.base c ∧
      (s.entry c a b).toNat = (s.modulus - a.toNat * (s.base c).toNat % s.modulus + b.toNat) % s.modulus) ∧
    (∃ t, execAll [.fpclr, .fill a] s = .next t ∧ ∀ c < s.channels, fpNat t c = a.toNat) ∧
    (¬ FpOutOfRange s →
      ∃ t, exec (.slide a b) s = .next t ∧ ∀ c < s.channels,
        (fpNat s c = a.toNat → fpNat t c = b.toNat) ∧
        (fpNat t c : ℤ) = (((s.base c).toNat : ℤ) * ((fpNat s c : ℤ) - a.toNat) + b.toNat) % (s.modulus : ℤ))

/-! # The combiner -/

/-- R210: FPCLR clears all four fingerprint registers, configured or not; its only legal word is 0x3000_0000. -/
def Obligations.FpclrClearsEveryFingerprint : Prop :=
  RejectsBadFields 0x30 0xFFFFFFFF 0x30000000 ∧ HasWord .fpclr (wordN 0x30) ∧
  ∀ s : State, ∃ t, exec .fpclr s = .next t ∧ Completes (wordN 0x30) s t ∧ (∀ c < 4, t.getFp c = 0) ∧
    XKeptBut [] s t ∧ CfgKept s t ∧ EntropyKept s t

/-- R211: FPGET copies FP[0..K-1] to the tuple at rd without a range check; NOT_CONFIGURED, and ILLEGAL_FIELD for a tuple
past X15. -/
def Obligations.FpgetCopiesTheTuple : Prop :=
  RejectsBadFields 0x31 0xFF0FFFFF 0x31000000 ∧
  ∀ rd : Reg, HasWord (.fpget rd) (wordR 0x31 rd 0 0 0 0) ∧
    ∀ s : State,
      (s.cfg.valid = false → Raises (.fpget rd) .notConfigured s) ∧
      (s.cfg.valid = true → 15 < rd.val + s.channels - 1 → Raises (.fpget rd) .illegalField s) ∧
      (s.cfg.valid = true → rd.val + s.channels - 1 ≤ 15 →
        ∃ t, exec (.fpget rd) s = .next t ∧ Completes (encode (.fpget rd)) s t ∧
          (∀ c < s.channels, t.getX (rd.val + c) = s.getFp c) ∧
          XKeptBut ((List.range s.channels).map (rd.val + ·)) s t ∧ FpKept s t ∧ CfgKept s t ∧ EntropyKept s t)

/-- R212: FPPUT copies the tuple at rs1 to FP[0..K-1] without a range check and leaves FP[K..3]; NOT_CONFIGURED, and
ILLEGAL_FIELD for a tuple past X15. -/
def Obligations.FpputLoadsTheTuple : Prop :=
  RejectsBadFields 0x32 0xFFF0FFFF 0x32000000 ∧
  ∀ rs1 : Reg, HasWord (.fpput rs1) (wordR 0x32 0 rs1 0 0 0) ∧
    ∀ s : State,
      (s.cfg.valid = false → Raises (.fpput rs1) .notConfigured s) ∧
      (s.cfg.valid = true → 15 < rs1.val + s.channels - 1 → Raises (.fpput rs1) .illegalField s) ∧
      (s.cfg.valid = true → rs1.val + s.channels - 1 ≤ 15 →
        ∃ t, exec (.fpput rs1) s = .next t ∧ Completes (encode (.fpput rs1)) s t ∧
          (∀ c < s.channels, t.getFp c = s.getX (rs1.val + c)) ∧
          (∀ c < 4, s.channels ≤ c → t.getFp c = s.getFp c) ∧
          XKeptBut [] s t ∧ CfgKept s t ∧ EntropyKept s t)

/-- R213, R214: CMP writes 0, 1 or 2 as tuple A equals, precedes or follows tuple B in the lexicographic order, channel 0
first; exactly one of the three holds; with the checks in the order NOT_CONFIGURED, tuples past X15, OPERAND_RANGE. -/
def Obligations.CmpOrdersTheTuples : Prop :=
  RejectsBadFields 0x33 0xFF000FFF 0x33000000 ∧
  ∀ rd rs1 rs2 : Reg, HasWord (.cmp rd rs1 rs2) (wordR 0x33 rd rs1 rs2 0 0) ∧
    ∀ s : State,
      (s.cfg.valid = false → Raises (.cmp rd rs1 rs2) .notConfigured s) ∧
      (s.cfg.valid = true → (15 < rs1.val + s.channels - 1 ∨ 15 < rs2.val + s.channels - 1) →
        Raises (.cmp rd rs1 rs2) .illegalField s) ∧
      (s.cfg.valid = true → rs1.val + s.channels - 1 ≤ 15 → rs2.val + s.channels - 1 ≤ 15 →
        (∃ c < s.channels, s.modulus ≤ xNat s (rs1.val + c) ∨ s.modulus ≤ xNat s (rs2.val + c)) →
        Raises (.cmp rd rs1 rs2) .operandRange s) ∧
      (s.cfg.valid = true → rs1.val + s.channels - 1 ≤ 15 → rs2.val + s.channels - 1 ≤ 15 →
        (∀ c < s.channels, xNat s (rs1.val + c) < s.modulus ∧ xNat s (rs2.val + c) < s.modulus) →
        ∃ t, exec (.cmp rd rs1 rs2) s = .next t ∧ Completes (encode (.cmp rd rs1 rs2)) s t ∧
          (xNat t rd = 0 ↔ ∀ c < s.channels, xNat s (rs1.val + c) = xNat s (rs2.val + c)) ∧
          (xNat t rd = 1 ↔ LexLess s.channels (fun c => xNat s (rs1.val + c)) fun c => xNat s (rs2.val + c)) ∧
          (xNat t rd = 2 ↔ LexLess s.channels (fun c => xNat s (rs2.val + c)) fun c => xNat s (rs1.val + c)) ∧
          xNat t rd ≤ 2 ∧ XKeptBut [rd.val] s t ∧ FpKept s t ∧ CfgKept s t ∧ EntropyKept s t)

/-- R216: PACK2 writes FP0 · 2^61 + FP1 for the 122-bit configuration, bits [127:122] 0; with the checks in the order
NOT_CONFIGURED, MODE_MISMATCH, OPERAND_RANGE. -/
def Obligations.Pack2PacksTwoChannels : Prop :=
  RejectsBadFields 0x34 0xFF0FFFFF 0x34000000 ∧
  ∀ rd : Reg, HasWord (.pack2 rd) (wordR 0x34 rd 0 0 0 0) ∧
    ∀ s : State,
      (s.cfg.valid = false → Raises (.pack2 rd) .notConfigured s) ∧
      (s.cfg.valid = true → s.channels ≠ 2 → Raises (.pack2 rd) .modeMismatch s) ∧
      (s.cfg.valid = true → s.channels = 2 → (s.modulus ≤ fpNat s 0 ∨ s.modulus ≤ fpNat s 1) →
        Raises (.pack2 rd) .operandRange s) ∧
      (s.cfg.valid = true → s.channels = 2 → fpNat s 0 < s.modulus → fpNat s 1 < s.modulus →
        ∃ t, exec (.pack2 rd) s = .next t ∧ Completes (encode (.pack2 rd)) s t ∧
          xNat t rd = fpNat s 0 * 2 ^ 61 + fpNat s 1 ∧ xNat t rd < 2 ^ 122 ∧ XKeptBut [rd.val] s t ∧ FpKept s t ∧
          CfgKept s t ∧ EntropyKept s t)

/-- R217: for pairs of 61-bit field elements the packed values PACK2 writes compare as integers exactly as the tuples
compare: less exactly when the tuple is lexicographically less, equal exactly when the tuples are equal. -/
def Obligations.PackedOrderIsTupleOrder : Prop :=
  ∀ (s s' : State) (rd : Reg), s.cfg.valid = true → s'.cfg.valid = true → s.channels = 2 → s'.channels = 2 →
    (∀ c < 2, fpNat s c < 2 ^ 61 - 1) → (∀ c < 2, fpNat s' c < 2 ^ 61 - 1) →
    ∃ t t', exec (.pack2 rd) s = .next t ∧ exec (.pack2 rd) s' = .next t' ∧
      (xNat t rd < xNat t' rd ↔ LexLess 2 (fpNat s) (fpNat s')) ∧
      (xNat t rd = xNat t' rd ↔ ∀ c < 2, fpNat s c = fpNat s' c)

/-! # Reset, configuration need, invariants -/

/-- R263: after reset the engine is idle with ERR = 0; and while CFG_VALID = 0 a command that needs a configuration raises
NOT_CONFIGURED, so only NOP, the arithmetic commands, CONFIG and FPCLR can complete. -/
def Obligations.UnconfiguredEngineRaisesNotConfigured : Prop :=
  State.reset.busy = none ∧ State.reset.err = false ∧ State.reset.cfg.valid = false ∧
  (∀ (s : State) (w : Word) (rest : List Event), ResetFrom s s → s.agenda = memWrite 0x00C w :: rest →
    ∃ t, step s = .next t ∧ t.busy = some w) ∧
  (∀ (s : State) (i : Instr), s.cfg.valid = false → needsConfiguration i = true → Raises i .notConfigured s) ∧
  (∀ (s t : State) (i : Instr), s.cfg.valid = false → exec i s = .next t → s.err = false → t.err = false →
    i = .nop ∨ isArithmetic i = true ∨ isConfig i = true ∨ i = .fpclr)

/-- The invariant holds after reset, with any events and any entropy words ahead. -/
def Obligations.ResetStateMeetsTheInvariant : Prop :=
  ∀ (agenda : List Event) (rng : List EntropyWord), Inv { State.reset with agenda := agenda, rng := rng }

/-- Every step keeps the invariant: the configuration is one CONFIG built (10_state.md R30) or the reset one, ERRCODE is 0
exactly while ERR is 0, and no command is busy while ERR is 1. -/
def Obligations.EveryStepKeepsTheInvariant : Prop :=
  ∀ s t : State, Inv s → step s = .next t → Inv t
end

