-- ==== Sys2Proof/Laws/Decode.lean ====
section
/-! SUPPORT. The bits of the formats, and the fields read back from them: what the decoder sees of an encoded
command. -/

namespace Sys2Proof

theorem formatN_getLsbD (op : BitVec 8) (i : Nat) :
    (formatN op).getLsbD i = if i < 24 then false else op.getLsbD (i - 24) := by
  unfold formatN
  simp only [BitVec.getLsbD_append]
  split_ifs <;> simp

theorem formatR_getLsbD (op : BitVec 8) (rd rs1 rs2 rs3 : BitVec 4) (sw : BitVec 2) (i : Nat) :
    (formatR op rd rs1 rs2 rs3 sw).getLsbD i =
      if i < 2 then sw.getLsbD i else if i < 8 then false
      else if i < 12 then rs3.getLsbD (i - 8) else if i < 16 then rs2.getLsbD (i - 12)
      else if i < 20 then rs1.getLsbD (i - 16) else if i < 24 then rd.getLsbD (i - 20)
      else op.getLsbD (i - 24) := by
  unfold formatR
  simp only [BitVec.getLsbD_append]
  split_ifs <;> first | omega | rfl | simp

theorem formatC_getLsbD (op : BitVec 8) (rt rb : BitVec 4) (e : BitVec 1) (wsel : BitVec 3) (i : Nat) :
    (formatC op rt rb e wsel).getLsbD i =
      if i < 8 then false else if i < 11 then wsel.getLsbD (i - 8)
      else if i < 12 then e.getLsbD (i - 11) else if i < 16 then false
      else if i < 20 then rb.getLsbD (i - 16) else if i < 24 then rt.getLsbD (i - 20)
      else op.getLsbD (i - 24) := by
  unfold formatC
  simp only [BitVec.getLsbD_append]
  split_ifs <;> first | omega | rfl | simp [Nat.sub_sub]

theorem formatL_getLsbD (op : BitVec 8) (rd : BitVec 4) (ch : BitVec 2) (a b : Byte) (i : Nat) :
    (formatL op rd ch a b).getLsbD i =
      if i < 8 then b.getLsbD i else if i < 16 then a.getLsbD (i - 8)
      else if i < 18 then false else if i < 20 then ch.getLsbD (i - 18)
      else if i < 24 then rd.getLsbD (i - 20) else op.getLsbD (i - 24) := by
  unfold formatL
  simp only [BitVec.getLsbD_append]
  split_ifs <;> first | omega | rfl | simp [Nat.sub_sub]

theorem formatB_getLsbD (op : BitVec 8) (a b : Byte) (i : Nat) :
    (formatB op a b).getLsbD i =
      if i < 8 then b.getLsbD i else if i < 16 then a.getLsbD (i - 8)
      else if i < 24 then false else op.getLsbD (i - 24) := by
  unfold formatB
  simp only [BitVec.getLsbD_append]
  split_ifs <;> first | omega | rfl | simp [Nat.sub_sub]

/-! ## The fields of a formatted word -/

/-- A field of a word, bit by bit. -/
theorem extractLsb'_ext {w : Word} {lo n : Nat} {v : BitVec n}
    (h : ∀ i < n, w.getLsbD (lo + i) = v.getLsbD i) : w.extractLsb' lo n = v := by
  apply BitVec.eq_of_getLsbD_eq
  intro i hi
  rw [BitVec.getLsbD_extractLsb', decide_eq_true hi, Bool.true_and, h i hi]

theorem formatN_byte (op : BitVec 8) :
    (formatN op).extractLsb' 24 8 = op := by
  apply extractLsb'_ext
  intro i hi
  rw [formatN_getLsbD]
  interval_cases i <;> rfl

theorem formatR_byte (op : BitVec 8) (rd rs1 rs2 rs3 : BitVec 4) (sw : BitVec 2) :
    (formatR op rd rs1 rs2 rs3 sw).extractLsb' 24 8 = op := by
  apply extractLsb'_ext
  intro i hi
  rw [formatR_getLsbD]
  interval_cases i <;> rfl

theorem formatR_rd (op : BitVec 8) (rd rs1 rs2 rs3 : BitVec 4) (sw : BitVec 2) :
    (formatR op rd rs1 rs2 rs3 sw).extractLsb' 20 4 = rd := by
  apply extractLsb'_ext
  intro i hi
  rw [formatR_getLsbD]
  interval_cases i <;> rfl

theorem formatR_rs1 (op : BitVec 8) (rd rs1 rs2 rs3 : BitVec 4) (sw : BitVec 2) :
    (formatR op rd rs1 rs2 rs3 sw).extractLsb' 16 4 = rs1 := by
  apply extractLsb'_ext
  intro i hi
  rw [formatR_getLsbD]
  interval_cases i <;> rfl

theorem formatR_rs2 (op : BitVec 8) (rd rs1 rs2 rs3 : BitVec 4) (sw : BitVec 2) :
    (formatR op rd rs1 rs2 rs3 sw).extractLsb' 12 4 = rs2 := by
  apply extractLsb'_ext
  intro i hi
  rw [formatR_getLsbD]
  interval_cases i <;> rfl

theorem formatR_rs3 (op : BitVec 8) (rd rs1 rs2 rs3 : BitVec 4) (sw : BitVec 2) :
    (formatR op rd rs1 rs2 rs3 sw).extractLsb' 8 4 = rs3 := by
  apply extractLsb'_ext
  intro i hi
  rw [formatR_getLsbD]
  interval_cases i <;> rfl

theorem formatR_sw (op : BitVec 8) (rd rs1 rs2 rs3 : BitVec 4) (sw : BitVec 2) :
    (formatR op rd rs1 rs2 rs3 sw).extractLsb' 0 2 = sw := by
  apply extractLsb'_ext
  intro i hi
  rw [formatR_getLsbD]
  interval_cases i <;> rfl

theorem formatC_byte (op : BitVec 8) (rt rb : BitVec 4) (e : BitVec 1) (wsel : BitVec 3) :
    (formatC op rt rb e wsel).extractLsb' 24 8 = op := by
  apply extractLsb'_ext
  intro i hi
  rw [formatC_getLsbD]
  interval_cases i <;> rfl

theorem formatC_rt (op : BitVec 8) (rt rb : BitVec 4) (e : BitVec 1) (wsel : BitVec 3) :
    (formatC op rt rb e wsel).extractLsb' 20 4 = rt := by
  apply extractLsb'_ext
  intro i hi
  rw [formatC_getLsbD]
  interval_cases i <;> rfl

theorem formatC_rb (op : BitVec 8) (rt rb : BitVec 4) (e : BitVec 1) (wsel : BitVec 3) :
    (formatC op rt rb e wsel).extractLsb' 16 4 = rb := by
  apply extractLsb'_ext
  intro i hi
  rw [formatC_getLsbD]
  interval_cases i <;> rfl

theorem formatC_wsel (op : BitVec 8) (rt rb : BitVec 4) (e : BitVec 1) (wsel : BitVec 3) :
    (formatC op rt rb e wsel).extractLsb' 8 3 = wsel := by
  apply extractLsb'_ext
  intro i hi
  rw [formatC_getLsbD]
  interval_cases i <;> rfl

theorem formatL_byte (op : BitVec 8) (rd : BitVec 4) (ch : BitVec 2) (a b : Byte) :
    (formatL op rd ch a b).extractLsb' 24 8 = op := by
  apply extractLsb'_ext
  intro i hi
  rw [formatL_getLsbD]
  interval_cases i <;> rfl

theorem formatL_rd (op : BitVec 8) (rd : BitVec 4) (ch : BitVec 2) (a b : Byte) :
    (formatL op rd ch a b).extractLsb' 20 4 = rd := by
  apply extractLsb'_ext
  intro i hi
  rw [formatL_getLsbD]
  interval_cases i <;> rfl

theorem formatL_ch (op : BitVec 8) (rd : BitVec 4) (ch : BitVec 2) (a b : Byte) :
    (formatL op rd ch a b).extractLsb' 18 2 = ch := by
  apply extractLsb'_ext
  intro i hi
  rw [formatL_getLsbD]
  interval_cases i <;> rfl

theorem formatL_a (op : BitVec 8) (rd : BitVec 4) (ch : BitVec 2) (a b : Byte) :
    (formatL op rd ch a b).extractLsb' 8 8 = a := by
  apply extractLsb'_ext
  intro i hi
  rw [formatL_getLsbD]
  interval_cases i <;> rfl

theorem formatL_b (op : BitVec 8) (rd : BitVec 4) (ch : BitVec 2) (a b : Byte) :
    (formatL op rd ch a b).extractLsb' 0 8 = b := by
  apply extractLsb'_ext
  intro i hi
  rw [formatL_getLsbD]
  interval_cases i <;> rfl

theorem formatB_byte (op : BitVec 8) (a b : Byte) :
    (formatB op a b).extractLsb' 24 8 = op := by
  apply extractLsb'_ext
  intro i hi
  rw [formatB_getLsbD]
  interval_cases i <;> rfl

theorem formatB_a (op : BitVec 8) (a b : Byte) :
    (formatB op a b).extractLsb' 8 8 = a := by
  apply extractLsb'_ext
  intro i hi
  rw [formatB_getLsbD]
  interval_cases i <;> rfl

theorem formatB_b (op : BitVec 8) (a b : Byte) :
    (formatB op a b).extractLsb' 0 8 = b := by
  apply extractLsb'_ext
  intro i hi
  rw [formatB_getLsbD]
  interval_cases i <;> rfl

/-- A field of four bits that holds a register's bits names that register. -/
theorem regField_of_bits {w : Word} {lo : Nat} {r : Reg} (h : w.extractLsb' lo 4 = regBits r) :
    regField lo w = r := by
  ext
  simp only [regField, h, regBits, BitVec.toNat_ofNat]
  have := r.isLt
  omega

/-- The four bits of a field are the register it names. -/
theorem regBits_regField (w : Word) (lo : Nat) : regBits (regField lo w) = w.extractLsb' lo 4 := by
  apply BitVec.eq_of_toNat_eq
  simp [regBits, regField]

@[simp] theorem Width.ofCode_code (w : Width) : Width.ofCode w.code = w := by cases w <;> rfl

theorem Width.code_ofCode (c : BitVec 2) : (Width.ofCode c).code = c := by
  revert c; decide

@[simp] theorem WSel.ofCode_fieldCode (w : Option WSel) : WSel.ofCode (WSel.fieldCode w) = w := by
  rcases w with _ | w
  · rfl
  · cases w <;> rfl

theorem WSel.fieldCode_ofCode (c : BitVec 3) : WSel.fieldCode (WSel.ofCode c) = c := by
  revert c; decide

/-- The opcode a byte selects has that byte. -/
theorem Op.byte_of_ofByte {b : BitVec 8} {o : Op} (h : Op.ofByte b = some o) : o.byte = b := by
  have := List.find?_some h
  simpa using this

@[simp] theorem Op.ofByte_byte (o : Op) : Op.ofByte o.byte = some o := by cases o <;> rfl

/-- What decoding answers with, said once. -/
theorem decode_cases (w : Word) :
    (Op.ofByte (w.extractLsb' 24 8) = none ∧ decode w = .error .illegalOpcode) ∨
    (∃ op, Op.ofByte (w.extractLsb' 24 8) = some op ∧
      ((w &&& op.mask (w.getLsbD 11) = op.pattern (w.getLsbD 11) ∧ decode w = .ok (op.instr w)) ∨
       (w &&& op.mask (w.getLsbD 11) ≠ op.pattern (w.getLsbD 11) ∧ decode w = .error .illegalField))) := by
  unfold decode
  cases h : Op.ofByte (w.extractLsb' 24 8) with
  | none => exact .inl ⟨rfl, rfl⟩
  | some op =>
    refine .inr ⟨op, rfl, ?_⟩
    by_cases hm : w &&& op.mask (w.getLsbD 11) = op.pattern (w.getLsbD 11)
    · exact .inl ⟨hm, by simp only [hm, if_true]⟩
    · exact .inr ⟨hm, by simp only [hm, if_false]⟩

/-! ## Decoding a word with a known opcode -/

/-- The row of an opcode depends on bit 11 for CONFIG alone. -/
theorem row_of_bit {w : Word} {op : Op} {e : Bool} (h : w.getLsbD 11 = e ∨ op ≠ .config) :
    op.mask (w.getLsbD 11) = op.mask e ∧ op.pattern (w.getLsbD 11) = op.pattern e := by
  rcases h with h | h
  · rw [h]; exact ⟨rfl, rfl⟩
  · cases op <;> first | exact ⟨rfl, rfl⟩ | exact absurd rfl h

/-- A word that matches its row is read as its opcode's command. -/
theorem decode_ok_of {w : Word} (op : Op) (e : Bool) (h : w.extractLsb' 24 8 = op.byte)
    (he : w.getLsbD 11 = e ∨ op ≠ .config) (hm : w &&& op.mask e = op.pattern e) : decode w = .ok (op.instr w) := by
  unfold decode
  rw [h, Op.ofByte_byte]
  simp only [(row_of_bit he).1, (row_of_bit he).2, hm, if_true]

/-- A word that misses its row is ILLEGAL_FIELD. -/
theorem decode_illegalField_of {w : Word} (op : Op) (e : Bool) (h : w.extractLsb' 24 8 = op.byte)
    (he : w.getLsbD 11 = e ∨ op ≠ .config) (hm : w &&& op.mask e ≠ op.pattern e) :
    decode w = .error .illegalField := by
  unfold decode
  rw [h, Op.ofByte_byte]
  simp only [(row_of_bit he).1, (row_of_bit he).2, hm, if_false]

/-- Matching a mask, bit by bit. -/
theorem and_mask {w m p : Word} (h : ∀ i < 32, (w.getLsbD i && m.getLsbD i) = p.getLsbD i) : w &&& m = p := by
  apply BitVec.eq_of_getLsbD_eq
  intro i hi
  rw [BitVec.getLsbD_and, h i hi]

/-- A bit the mask fixes is the pattern's. -/
theorem bit_of_mask {w m p : Word} (h : w &&& m = p) (i : Nat) (hm : m.getLsbD i = true) :
    w.getLsbD i = p.getLsbD i := by
  rw [← h, BitVec.getLsbD_and, hm, Bool.and_true]

theorem chanField_of_bits {w : Word} {c : Chan} (h : w.extractLsb' 18 2 = BitVec.ofNat 2 c.val) : chanField w = c := by
  ext
  simp only [chanField, h, BitVec.toNat_ofNat]
  have := c.isLt
  omega

/-! ## Formatted words as numbers -/

theorem toNat_append_add {m n : Nat} (a : BitVec m) (b : BitVec n) :
    (a ++ b).toNat = a.toNat * 2 ^ n + b.toNat := by
  rw [BitVec.toNat_append, ← Nat.shiftLeft_add_eq_or_of_lt b.isLt, Nat.shiftLeft_eq]

theorem formatN_toNat (op : BitVec 8) : (formatN op).toNat = op.toNat * 2 ^ 24 := by
  unfold formatN
  simp only [toNat_append_add, BitVec.toNat_ofNat]
  omega

theorem formatR_toNat (op : BitVec 8) (rd rs1 rs2 rs3 : BitVec 4) (sw : BitVec 2) :
    (formatR op rd rs1 rs2 rs3 sw).toNat = op.toNat * 2 ^ 24 + rd.toNat * 2 ^ 20 + rs1.toNat * 2 ^ 16
      + rs2.toNat * 2 ^ 12 + rs3.toNat * 2 ^ 8 + sw.toNat := by
  unfold formatR
  simp only [toNat_append_add, BitVec.toNat_ofNat]
  omega

theorem formatC_toNat (op : BitVec 8) (rt rb : BitVec 4) (e : BitVec 1) (wsel : BitVec 3) :
    (formatC op rt rb e wsel).toNat = op.toNat * 2 ^ 24 + rt.toNat * 2 ^ 20 + rb.toNat * 2 ^ 16
      + e.toNat * 2 ^ 11 + wsel.toNat * 2 ^ 8 := by
  unfold formatC
  simp only [toNat_append_add, BitVec.toNat_ofNat]
  omega

theorem formatL_toNat (op : BitVec 8) (rd : BitVec 4) (ch : BitVec 2) (a b : Byte) :
    (formatL op rd ch a b).toNat = op.toNat * 2 ^ 24 + rd.toNat * 2 ^ 20 + ch.toNat * 2 ^ 18
      + a.toNat * 2 ^ 8 + b.toNat := by
  unfold formatL
  simp only [toNat_append_add, BitVec.toNat_ofNat]
  omega

theorem formatB_toNat (op : BitVec 8) (a b : Byte) :
    (formatB op a b).toNat = op.toNat * 2 ^ 24 + a.toNat * 2 ^ 8 + b.toNat := by
  unfold formatB
  simp only [toNat_append_add, BitVec.toNat_ofNat]
  omega

theorem regBits_toNat (r : Reg) : (regBits r).toNat = r.val := by
  simp only [regBits, BitVec.toNat_ofNat]
  omega

end Sys2Proof
end

