-- ==== Sys2Proof/Laws/State.lean ====
section
/-! SUPPORT. One lemma for each field of `State` under each update of it, and for each accessor the update
leaves alone; so that no proof unfolds a record update. -/

namespace Sys2Proof.Machine

/-! ## setX -/

@[simp] theorem setX_x (n : Nat) (v : Val) (s : State) : (s.setX n v).x = s.x.setIfInBounds n v := rfl
@[simp] theorem setX_fp (n : Nat) (v : Val) (s : State) : (s.setX n v).fp = s.fp := rfl
@[simp] theorem setX_cfg (n : Nat) (v : Val) (s : State) : (s.setX n v).cfg = s.cfg := rfl
@[simp] theorem setX_errIe (n : Nat) (v : Val) (s : State) : (s.setX n v).errIe = s.errIe := rfl
@[simp] theorem setX_doneIe (n : Nat) (v : Val) (s : State) : (s.setX n v).doneIe = s.doneIe := rfl
@[simp] theorem setX_busy (n : Nat) (v : Val) (s : State) : (s.setX n v).busy = s.busy := rfl
@[simp] theorem setX_err (n : Nat) (v : Val) (s : State) : (s.setX n v).err = s.err := rfl
@[simp] theorem setX_errCode (n : Nat) (v : Val) (s : State) : (s.setX n v).errCode = s.errCode := rfl
@[simp] theorem setX_done (n : Nat) (v : Val) (s : State) : (s.setX n v).done = s.done := rfl
@[simp] theorem setX_lastCmd (n : Nat) (v : Val) (s : State) : (s.setX n v).lastCmd = s.lastCmd := rfl
@[simp] theorem setX_errCmd (n : Nat) (v : Val) (s : State) : (s.setX n v).errCmd = s.errCmd := rfl
@[simp] theorem setX_agenda (n : Nat) (v : Val) (s : State) : (s.setX n v).agenda = s.agenda := rfl
@[simp] theorem setX_response (n : Nat) (v : Val) (s : State) : (s.setX n v).response = s.response := rfl
@[simp] theorem setX_rng (n : Nat) (v : Val) (s : State) : (s.setX n v).rng = s.rng := rfl
@[simp] theorem setX_draws (n : Nat) (v : Val) (s : State) : (s.setX n v).draws = s.draws := rfl
@[simp] theorem setX_getFp (n : Nat) (v : Val) (s : State) (c : Nat) : (s.setX n v).getFp c = s.getFp c := rfl
@[simp] theorem setX_base (n : Nat) (v : Val) (s : State) (c : Nat) : (s.setX n v).base c = s.base c := rfl
@[simp] theorem setX_maxExp (n : Nat) (v : Val) (s : State) (c : Nat) : (s.setX n v).maxExp c = s.maxExp c := rfl
@[simp] theorem setX_modulus (n : Nat) (v : Val) (s : State) : (s.setX n v).modulus = s.modulus := rfl
@[simp] theorem setX_channels (n : Nat) (v : Val) (s : State) : (s.setX n v).channels = s.channels := rfl
@[simp] theorem setX_entry (n : Nat) (v : Val) (s : State) (c : Nat) : (s.setX n v).entry c = s.entry c := rfl

/-! ## setFps -/

@[simp] theorem setFps_x (v : Vector Val 4) (s : State) : (s.setFps v).x = s.x := rfl
@[simp] theorem setFps_fp (v : Vector Val 4) (s : State) : (s.setFps v).fp = v := rfl
@[simp] theorem setFps_cfg (v : Vector Val 4) (s : State) : (s.setFps v).cfg = s.cfg := rfl
@[simp] theorem setFps_errIe (v : Vector Val 4) (s : State) : (s.setFps v).errIe = s.errIe := rfl
@[simp] theorem setFps_doneIe (v : Vector Val 4) (s : State) : (s.setFps v).doneIe = s.doneIe := rfl
@[simp] theorem setFps_busy (v : Vector Val 4) (s : State) : (s.setFps v).busy = s.busy := rfl
@[simp] theorem setFps_err (v : Vector Val 4) (s : State) : (s.setFps v).err = s.err := rfl
@[simp] theorem setFps_errCode (v : Vector Val 4) (s : State) : (s.setFps v).errCode = s.errCode := rfl
@[simp] theorem setFps_done (v : Vector Val 4) (s : State) : (s.setFps v).done = s.done := rfl
@[simp] theorem setFps_lastCmd (v : Vector Val 4) (s : State) : (s.setFps v).lastCmd = s.lastCmd := rfl
@[simp] theorem setFps_errCmd (v : Vector Val 4) (s : State) : (s.setFps v).errCmd = s.errCmd := rfl
@[simp] theorem setFps_agenda (v : Vector Val 4) (s : State) : (s.setFps v).agenda = s.agenda := rfl
@[simp] theorem setFps_response (v : Vector Val 4) (s : State) : (s.setFps v).response = s.response := rfl
@[simp] theorem setFps_rng (v : Vector Val 4) (s : State) : (s.setFps v).rng = s.rng := rfl
@[simp] theorem setFps_draws (v : Vector Val 4) (s : State) : (s.setFps v).draws = s.draws := rfl
@[simp] theorem setFps_getX (v : Vector Val 4) (s : State) (k : Nat) : (s.setFps v).getX k = s.getX k := rfl
@[simp] theorem setFps_base (v : Vector Val 4) (s : State) (c : Nat) : (s.setFps v).base c = s.base c := rfl
@[simp] theorem setFps_maxExp (v : Vector Val 4) (s : State) (c : Nat) : (s.setFps v).maxExp c = s.maxExp c := rfl
@[simp] theorem setFps_modulus (v : Vector Val 4) (s : State) : (s.setFps v).modulus = s.modulus := rfl
@[simp] theorem setFps_channels (v : Vector Val 4) (s : State) : (s.setFps v).channels = s.channels := rfl
@[simp] theorem setFps_entry (v : Vector Val 4) (s : State) (c : Nat) : (s.setFps v).entry c = s.entry c := rfl

/-! ## commit -/

@[simp] theorem commit_x (c : Configuration) (s : State) : (s.commit c).x = s.x := rfl
@[simp] theorem commit_fp (c : Configuration) (s : State) : (s.commit c).fp = s.fp := rfl
@[simp] theorem commit_cfg (c : Configuration) (s : State) : (s.commit c).cfg = c := rfl
@[simp] theorem commit_errIe (c : Configuration) (s : State) : (s.commit c).errIe = s.errIe := rfl
@[simp] theorem commit_doneIe (c : Configuration) (s : State) : (s.commit c).doneIe = s.doneIe := rfl
@[simp] theorem commit_busy (c : Configuration) (s : State) : (s.commit c).busy = s.busy := rfl
@[simp] theorem commit_err (c : Configuration) (s : State) : (s.commit c).err = s.err := rfl
@[simp] theorem commit_errCode (c : Configuration) (s : State) : (s.commit c).errCode = s.errCode := rfl
@[simp] theorem commit_done (c : Configuration) (s : State) : (s.commit c).done = s.done := rfl
@[simp] theorem commit_lastCmd (c : Configuration) (s : State) : (s.commit c).lastCmd = s.lastCmd := rfl
@[simp] theorem commit_errCmd (c : Configuration) (s : State) : (s.commit c).errCmd = s.errCmd := rfl
@[simp] theorem commit_agenda (c : Configuration) (s : State) : (s.commit c).agenda = s.agenda := rfl
@[simp] theorem commit_response (c : Configuration) (s : State) : (s.commit c).response = s.response := rfl
@[simp] theorem commit_rng (c : Configuration) (s : State) : (s.commit c).rng = s.rng := rfl
@[simp] theorem commit_draws (c : Configuration) (s : State) : (s.commit c).draws = s.draws := rfl
@[simp] theorem commit_getX (c : Configuration) (s : State) (k : Nat) : (s.commit c).getX k = s.getX k := rfl
@[simp] theorem commit_getFp (d : Configuration) (s : State) (c : Nat) : (s.commit d).getFp c = s.getFp c := rfl

/-! ## takeWords -/

@[simp] theorem takeWords_x (rest : List EntropyWord) (used : Nat) (s : State) : (s.takeWords rest used).x = s.x := rfl
@[simp] theorem takeWords_fp (rest : List EntropyWord) (used : Nat) (s : State) : (s.takeWords rest used).fp = s.fp := rfl
@[simp] theorem takeWords_cfg (rest : List EntropyWord) (used : Nat) (s : State) : (s.takeWords rest used).cfg = s.cfg := rfl
@[simp] theorem takeWords_errIe (rest : List EntropyWord) (used : Nat) (s : State) : (s.takeWords rest used).errIe = s.errIe := rfl
@[simp] theorem takeWords_doneIe (rest : List EntropyWord) (used : Nat) (s : State) : (s.takeWords rest used).doneIe = s.doneIe := rfl
@[simp] theorem takeWords_busy (rest : List EntropyWord) (used : Nat) (s : State) : (s.takeWords rest used).busy = s.busy := rfl
@[simp] theorem takeWords_err (rest : List EntropyWord) (used : Nat) (s : State) : (s.takeWords rest used).err = s.err := rfl
@[simp] theorem takeWords_errCode (rest : List EntropyWord) (used : Nat) (s : State) : (s.takeWords rest used).errCode = s.errCode := rfl
@[simp] theorem takeWords_done (rest : List EntropyWord) (used : Nat) (s : State) : (s.takeWords rest used).done = s.done := rfl
@[simp] theorem takeWords_lastCmd (rest : List EntropyWord) (used : Nat) (s : State) : (s.takeWords rest used).lastCmd = s.lastCmd := rfl
@[simp] theorem takeWords_errCmd (rest : List EntropyWord) (used : Nat) (s : State) : (s.takeWords rest used).errCmd = s.errCmd := rfl
@[simp] theorem takeWords_agenda (rest : List EntropyWord) (used : Nat) (s : State) : (s.takeWords rest used).agenda = s.agenda := rfl
@[simp] theorem takeWords_response (rest : List EntropyWord) (used : Nat) (s : State) : (s.takeWords rest used).response = s.response := rfl
@[simp] theorem takeWords_rng (rest : List EntropyWord) (used : Nat) (s : State) : (s.takeWords rest used).rng = rest := rfl
@[simp] theorem takeWords_draws (rest : List EntropyWord) (used : Nat) (s : State) : (s.takeWords rest used).draws = s.draws + used := rfl
@[simp] theorem takeWords_getX (rest : List EntropyWord) (used : Nat) (s : State) (k : Nat) : (s.takeWords rest used).getX k = s.getX k := rfl
@[simp] theorem takeWords_getFp (rest : List EntropyWord) (used : Nat) (s : State) (c : Nat) : (s.takeWords rest used).getFp c = s.getFp c := rfl
@[simp] theorem takeWords_base (rest : List EntropyWord) (used : Nat) (s : State) (c : Nat) : (s.takeWords rest used).base c = s.base c := rfl
@[simp] theorem takeWords_maxExp (rest : List EntropyWord) (used : Nat) (s : State) (c : Nat) : (s.takeWords rest used).maxExp c = s.maxExp c := rfl
@[simp] theorem takeWords_modulus (rest : List EntropyWord) (used : Nat) (s : State) : (s.takeWords rest used).modulus = s.modulus := rfl
@[simp] theorem takeWords_channels (rest : List EntropyWord) (used : Nat) (s : State) : (s.takeWords rest used).channels = s.channels := rfl
@[simp] theorem takeWords_entry (rest : List EntropyWord) (used : Nat) (s : State) (c : Nat) : (s.takeWords rest used).entry c = s.entry c := rfl

/-! ## raiseError -/

@[simp] theorem raiseError_x (w : Word) (e : ErrCode) (s : State) : (s.raiseError w e).x = s.x := rfl
@[simp] theorem raiseError_fp (w : Word) (e : ErrCode) (s : State) : (s.raiseError w e).fp = s.fp := rfl
@[simp] theorem raiseError_cfg (w : Word) (e : ErrCode) (s : State) : (s.raiseError w e).cfg = s.cfg := rfl
@[simp] theorem raiseError_errIe (w : Word) (e : ErrCode) (s : State) : (s.raiseError w e).errIe = s.errIe := rfl
@[simp] theorem raiseError_doneIe (w : Word) (e : ErrCode) (s : State) : (s.raiseError w e).doneIe = s.doneIe := rfl
@[simp] theorem raiseError_busy (w : Word) (e : ErrCode) (s : State) : (s.raiseError w e).busy = none := rfl
@[simp] theorem raiseError_err (w : Word) (e : ErrCode) (s : State) : (s.raiseError w e).err = true := rfl
@[simp] theorem raiseError_errCode (w : Word) (e : ErrCode) (s : State) : (s.raiseError w e).errCode = e := rfl
@[simp] theorem raiseError_done (w : Word) (e : ErrCode) (s : State) : (s.raiseError w e).done = s.done := rfl
@[simp] theorem raiseError_lastCmd (w : Word) (e : ErrCode) (s : State) : (s.raiseError w e).lastCmd = s.lastCmd := rfl
@[simp] theorem raiseError_errCmd (w : Word) (e : ErrCode) (s : State) : (s.raiseError w e).errCmd = w := rfl
@[simp] theorem raiseError_agenda (w : Word) (e : ErrCode) (s : State) : (s.raiseError w e).agenda = s.agenda := rfl
@[simp] theorem raiseError_response (w : Word) (e : ErrCode) (s : State) : (s.raiseError w e).response = s.response := rfl
@[simp] theorem raiseError_rng (w : Word) (e : ErrCode) (s : State) : (s.raiseError w e).rng = s.rng := rfl
@[simp] theorem raiseError_draws (w : Word) (e : ErrCode) (s : State) : (s.raiseError w e).draws = s.draws := rfl
@[simp] theorem raiseError_getX (w : Word) (e : ErrCode) (s : State) (k : Nat) : (s.raiseError w e).getX k = s.getX k := rfl
@[simp] theorem raiseError_getFp (w : Word) (e : ErrCode) (s : State) (c : Nat) : (s.raiseError w e).getFp c = s.getFp c := rfl
@[simp] theorem raiseError_base (w : Word) (e : ErrCode) (s : State) (c : Nat) : (s.raiseError w e).base c = s.base c := rfl
@[simp] theorem raiseError_maxExp (w : Word) (e : ErrCode) (s : State) (c : Nat) : (s.raiseError w e).maxExp c = s.maxExp c := rfl
@[simp] theorem raiseError_modulus (w : Word) (e : ErrCode) (s : State) : (s.raiseError w e).modulus = s.modulus := rfl
@[simp] theorem raiseError_channels (w : Word) (e : ErrCode) (s : State) : (s.raiseError w e).channels = s.channels := rfl
@[simp] theorem raiseError_entry (w : Word) (e : ErrCode) (s : State) (c : Nat) : (s.raiseError w e).entry c = s.entry c := rfl

/-! ## complete -/

@[simp] theorem complete_x (w : Word) (s : State) : (s.complete w).x = s.x := rfl
@[simp] theorem complete_fp (w : Word) (s : State) : (s.complete w).fp = s.fp := rfl
@[simp] theorem complete_cfg (w : Word) (s : State) : (s.complete w).cfg = s.cfg := rfl
@[simp] theorem complete_errIe (w : Word) (s : State) : (s.complete w).errIe = s.errIe := rfl
@[simp] theorem complete_doneIe (w : Word) (s : State) : (s.complete w).doneIe = s.doneIe := rfl
@[simp] theorem complete_busy (w : Word) (s : State) : (s.complete w).busy = none := rfl
@[simp] theorem complete_err (w : Word) (s : State) : (s.complete w).err = s.err := rfl
@[simp] theorem complete_errCode (w : Word) (s : State) : (s.complete w).errCode = s.errCode := rfl
@[simp] theorem complete_done (w : Word) (s : State) : (s.complete w).done = true := rfl
@[simp] theorem complete_lastCmd (w : Word) (s : State) : (s.complete w).lastCmd = w := rfl
@[simp] theorem complete_errCmd (w : Word) (s : State) : (s.complete w).errCmd = s.errCmd := rfl
@[simp] theorem complete_agenda (w : Word) (s : State) : (s.complete w).agenda = s.agenda := rfl
@[simp] theorem complete_response (w : Word) (s : State) : (s.complete w).response = s.response := rfl
@[simp] theorem complete_rng (w : Word) (s : State) : (s.complete w).rng = s.rng := rfl
@[simp] theorem complete_draws (w : Word) (s : State) : (s.complete w).draws = s.draws := rfl
@[simp] theorem complete_getX (w : Word) (s : State) (k : Nat) : (s.complete w).getX k = s.getX k := rfl
@[simp] theorem complete_getFp (w : Word) (s : State) (c : Nat) : (s.complete w).getFp c = s.getFp c := rfl
@[simp] theorem complete_base (w : Word) (s : State) (c : Nat) : (s.complete w).base c = s.base c := rfl
@[simp] theorem complete_maxExp (w : Word) (s : State) (c : Nat) : (s.complete w).maxExp c = s.maxExp c := rfl
@[simp] theorem complete_modulus (w : Word) (s : State) : (s.complete w).modulus = s.modulus := rfl
@[simp] theorem complete_channels (w : Word) (s : State) : (s.complete w).channels = s.channels := rfl
@[simp] theorem complete_entry (w : Word) (s : State) (c : Nat) : (s.complete w).entry c = s.entry c := rfl

/-! ## clearError -/

@[simp] theorem clearError_x (s : State) : (s.clearError).x = s.x := rfl
@[simp] theorem clearError_fp (s : State) : (s.clearError).fp = s.fp := rfl
@[simp] theorem clearError_cfg (s : State) : (s.clearError).cfg = s.cfg := rfl
@[simp] theorem clearError_errIe (s : State) : (s.clearError).errIe = s.errIe := rfl
@[simp] theorem clearError_doneIe (s : State) : (s.clearError).doneIe = s.doneIe := rfl
@[simp] theorem clearError_busy (s : State) : (s.clearError).busy = s.busy := rfl
@[simp] theorem clearError_err (s : State) : (s.clearError).err = false := rfl
@[simp] theorem clearError_errCode (s : State) : (s.clearError).errCode = .noError := rfl
@[simp] theorem clearError_done (s : State) : (s.clearError).done = s.done := rfl
@[simp] theorem clearError_lastCmd (s : State) : (s.clearError).lastCmd = s.lastCmd := rfl
@[simp] theorem clearError_errCmd (s : State) : (s.clearError).errCmd = s.errCmd := rfl
@[simp] theorem clearError_agenda (s : State) : (s.clearError).agenda = s.agenda := rfl
@[simp] theorem clearError_response (s : State) : (s.clearError).response = s.response := rfl
@[simp] theorem clearError_rng (s : State) : (s.clearError).rng = s.rng := rfl
@[simp] theorem clearError_draws (s : State) : (s.clearError).draws = s.draws := rfl
@[simp] theorem clearError_getX (s : State) (k : Nat) : (s.clearError).getX k = s.getX k := rfl
@[simp] theorem clearError_getFp (s : State) (c : Nat) : (s.clearError).getFp c = s.getFp c := rfl
@[simp] theorem clearError_base (s : State) (c : Nat) : (s.clearError).base c = s.base c := rfl
@[simp] theorem clearError_maxExp (s : State) (c : Nat) : (s.clearError).maxExp c = s.maxExp c := rfl
@[simp] theorem clearError_modulus (s : State) : (s.clearError).modulus = s.modulus := rfl
@[simp] theorem clearError_channels (s : State) : (s.clearError).channels = s.channels := rfl
@[simp] theorem clearError_entry (s : State) (c : Nat) : (s.clearError).entry c = s.entry c := rfl

/-! ## clearDone -/

@[simp] theorem clearDone_x (s : State) : (s.clearDone).x = s.x := rfl
@[simp] theorem clearDone_fp (s : State) : (s.clearDone).fp = s.fp := rfl
@[simp] theorem clearDone_cfg (s : State) : (s.clearDone).cfg = s.cfg := rfl
@[simp] theorem clearDone_errIe (s : State) : (s.clearDone).errIe = s.errIe := rfl
@[simp] theorem clearDone_doneIe (s : State) : (s.clearDone).doneIe = s.doneIe := rfl
@[simp] theorem clearDone_busy (s : State) : (s.clearDone).busy = s.busy := rfl
@[simp] theorem clearDone_err (s : State) : (s.clearDone).err = s.err := rfl
@[simp] theorem clearDone_errCode (s : State) : (s.clearDone).errCode = s.errCode := rfl
@[simp] theorem clearDone_done (s : State) : (s.clearDone).done = false := rfl
@[simp] theorem clearDone_lastCmd (s : State) : (s.clearDone).lastCmd = s.lastCmd := rfl
@[simp] theorem clearDone_errCmd (s : State) : (s.clearDone).errCmd = s.errCmd := rfl
@[simp] theorem clearDone_agenda (s : State) : (s.clearDone).agenda = s.agenda := rfl
@[simp] theorem clearDone_response (s : State) : (s.clearDone).response = s.response := rfl
@[simp] theorem clearDone_rng (s : State) : (s.clearDone).rng = s.rng := rfl
@[simp] theorem clearDone_draws (s : State) : (s.clearDone).draws = s.draws := rfl
@[simp] theorem clearDone_getX (s : State) (k : Nat) : (s.clearDone).getX k = s.getX k := rfl
@[simp] theorem clearDone_getFp (s : State) (c : Nat) : (s.clearDone).getFp c = s.getFp c := rfl
@[simp] theorem clearDone_base (s : State) (c : Nat) : (s.clearDone).base c = s.base c := rfl
@[simp] theorem clearDone_maxExp (s : State) (c : Nat) : (s.clearDone).maxExp c = s.maxExp c := rfl
@[simp] theorem clearDone_modulus (s : State) : (s.clearDone).modulus = s.modulus := rfl
@[simp] theorem clearDone_channels (s : State) : (s.clearDone).channels = s.channels := rfl
@[simp] theorem clearDone_entry (s : State) (c : Nat) : (s.clearDone).entry c = s.entry c := rfl

/-! ## setEnables -/

@[simp] theorem setEnables_x (errIe doneIe : Bool) (s : State) : (s.setEnables errIe doneIe).x = s.x := rfl
@[simp] theorem setEnables_fp (errIe doneIe : Bool) (s : State) : (s.setEnables errIe doneIe).fp = s.fp := rfl
@[simp] theorem setEnables_cfg (errIe doneIe : Bool) (s : State) : (s.setEnables errIe doneIe).cfg = s.cfg := rfl
@[simp] theorem setEnables_errIe (errIe doneIe : Bool) (s : State) : (s.setEnables errIe doneIe).errIe = errIe := rfl
@[simp] theorem setEnables_doneIe (errIe doneIe : Bool) (s : State) : (s.setEnables errIe doneIe).doneIe = doneIe := rfl
@[simp] theorem setEnables_busy (errIe doneIe : Bool) (s : State) : (s.setEnables errIe doneIe).busy = s.busy := rfl
@[simp] theorem setEnables_err (errIe doneIe : Bool) (s : State) : (s.setEnables errIe doneIe).err = s.err := rfl
@[simp] theorem setEnables_errCode (errIe doneIe : Bool) (s : State) : (s.setEnables errIe doneIe).errCode = s.errCode := rfl
@[simp] theorem setEnables_done (errIe doneIe : Bool) (s : State) : (s.setEnables errIe doneIe).done = s.done := rfl
@[simp] theorem setEnables_lastCmd (errIe doneIe : Bool) (s : State) : (s.setEnables errIe doneIe).lastCmd = s.lastCmd := rfl
@[simp] theorem setEnables_errCmd (errIe doneIe : Bool) (s : State) : (s.setEnables errIe doneIe).errCmd = s.errCmd := rfl
@[simp] theorem setEnables_agenda (errIe doneIe : Bool) (s : State) : (s.setEnables errIe doneIe).agenda = s.agenda := rfl
@[simp] theorem setEnables_response (errIe doneIe : Bool) (s : State) : (s.setEnables errIe doneIe).response = s.response := rfl
@[simp] theorem setEnables_rng (errIe doneIe : Bool) (s : State) : (s.setEnables errIe doneIe).rng = s.rng := rfl
@[simp] theorem setEnables_draws (errIe doneIe : Bool) (s : State) : (s.setEnables errIe doneIe).draws = s.draws := rfl
@[simp] theorem setEnables_getX (errIe doneIe : Bool) (s : State) (k : Nat) : (s.setEnables errIe doneIe).getX k = s.getX k := rfl
@[simp] theorem setEnables_getFp (errIe doneIe : Bool) (s : State) (c : Nat) : (s.setEnables errIe doneIe).getFp c = s.getFp c := rfl
@[simp] theorem setEnables_base (errIe doneIe : Bool) (s : State) (c : Nat) : (s.setEnables errIe doneIe).base c = s.base c := rfl
@[simp] theorem setEnables_maxExp (errIe doneIe : Bool) (s : State) (c : Nat) : (s.setEnables errIe doneIe).maxExp c = s.maxExp c := rfl
@[simp] theorem setEnables_modulus (errIe doneIe : Bool) (s : State) : (s.setEnables errIe doneIe).modulus = s.modulus := rfl
@[simp] theorem setEnables_channels (errIe doneIe : Bool) (s : State) : (s.setEnables errIe doneIe).channels = s.channels := rfl
@[simp] theorem setEnables_entry (errIe doneIe : Bool) (s : State) (c : Nat) : (s.setEnables errIe doneIe).entry c = s.entry c := rfl

/-! ## accept -/

@[simp] theorem accept_x (w : Word) (s : State) : (s.accept w).x = s.x := rfl
@[simp] theorem accept_fp (w : Word) (s : State) : (s.accept w).fp = s.fp := rfl
@[simp] theorem accept_cfg (w : Word) (s : State) : (s.accept w).cfg = s.cfg := rfl
@[simp] theorem accept_errIe (w : Word) (s : State) : (s.accept w).errIe = s.errIe := rfl
@[simp] theorem accept_doneIe (w : Word) (s : State) : (s.accept w).doneIe = s.doneIe := rfl
@[simp] theorem accept_busy (w : Word) (s : State) : (s.accept w).busy = some w := rfl
@[simp] theorem accept_err (w : Word) (s : State) : (s.accept w).err = s.err := rfl
@[simp] theorem accept_errCode (w : Word) (s : State) : (s.accept w).errCode = s.errCode := rfl
@[simp] theorem accept_done (w : Word) (s : State) : (s.accept w).done = s.done := rfl
@[simp] theorem accept_lastCmd (w : Word) (s : State) : (s.accept w).lastCmd = s.lastCmd := rfl
@[simp] theorem accept_errCmd (w : Word) (s : State) : (s.accept w).errCmd = s.errCmd := rfl
@[simp] theorem accept_agenda (w : Word) (s : State) : (s.accept w).agenda = s.agenda := rfl
@[simp] theorem accept_response (w : Word) (s : State) : (s.accept w).response = s.response := rfl
@[simp] theorem accept_rng (w : Word) (s : State) : (s.accept w).rng = s.rng := rfl
@[simp] theorem accept_draws (w : Word) (s : State) : (s.accept w).draws = s.draws := rfl
@[simp] theorem accept_getX (w : Word) (s : State) (k : Nat) : (s.accept w).getX k = s.getX k := rfl
@[simp] theorem accept_getFp (w : Word) (s : State) (c : Nat) : (s.accept w).getFp c = s.getFp c := rfl
@[simp] theorem accept_base (w : Word) (s : State) (c : Nat) : (s.accept w).base c = s.base c := rfl
@[simp] theorem accept_maxExp (w : Word) (s : State) (c : Nat) : (s.accept w).maxExp c = s.maxExp c := rfl
@[simp] theorem accept_modulus (w : Word) (s : State) : (s.accept w).modulus = s.modulus := rfl
@[simp] theorem accept_channels (w : Word) (s : State) : (s.accept w).channels = s.channels := rfl
@[simp] theorem accept_entry (w : Word) (s : State) (c : Nat) : (s.accept w).entry c = s.entry c := rfl

/-! ## respond -/

@[simp] theorem respond_x (r : Response) (s : State) : (s.respond r).x = s.x := rfl
@[simp] theorem respond_fp (r : Response) (s : State) : (s.respond r).fp = s.fp := rfl
@[simp] theorem respond_cfg (r : Response) (s : State) : (s.respond r).cfg = s.cfg := rfl
@[simp] theorem respond_errIe (r : Response) (s : State) : (s.respond r).errIe = s.errIe := rfl
@[simp] theorem respond_doneIe (r : Response) (s : State) : (s.respond r).doneIe = s.doneIe := rfl
@[simp] theorem respond_busy (r : Response) (s : State) : (s.respond r).busy = s.busy := rfl
@[simp] theorem respond_err (r : Response) (s : State) : (s.respond r).err = s.err := rfl
@[simp] theorem respond_errCode (r : Response) (s : State) : (s.respond r).errCode = s.errCode := rfl
@[simp] theorem respond_done (r : Response) (s : State) : (s.respond r).done = s.done := rfl
@[simp] theorem respond_lastCmd (r : Response) (s : State) : (s.respond r).lastCmd = s.lastCmd := rfl
@[simp] theorem respond_errCmd (r : Response) (s : State) : (s.respond r).errCmd = s.errCmd := rfl
@[simp] theorem respond_agenda (r : Response) (s : State) : (s.respond r).agenda = s.agenda := rfl
@[simp] theorem respond_response (r : Response) (s : State) : (s.respond r).response = some r := rfl
@[simp] theorem respond_rng (r : Response) (s : State) : (s.respond r).rng = s.rng := rfl
@[simp] theorem respond_draws (r : Response) (s : State) : (s.respond r).draws = s.draws := rfl
@[simp] theorem respond_getX (r : Response) (s : State) (k : Nat) : (s.respond r).getX k = s.getX k := rfl
@[simp] theorem respond_getFp (r : Response) (s : State) (c : Nat) : (s.respond r).getFp c = s.getFp c := rfl
@[simp] theorem respond_base (r : Response) (s : State) (c : Nat) : (s.respond r).base c = s.base c := rfl
@[simp] theorem respond_maxExp (r : Response) (s : State) (c : Nat) : (s.respond r).maxExp c = s.maxExp c := rfl
@[simp] theorem respond_modulus (r : Response) (s : State) : (s.respond r).modulus = s.modulus := rfl
@[simp] theorem respond_channels (r : Response) (s : State) : (s.respond r).channels = s.channels := rfl
@[simp] theorem respond_entry (r : Response) (s : State) (c : Nat) : (s.respond r).entry c = s.entry c := rfl

/-! ## withAgenda -/

@[simp] theorem withAgenda_x (events : List Event) (s : State) : (s.withAgenda events).x = s.x := rfl
@[simp] theorem withAgenda_fp (events : List Event) (s : State) : (s.withAgenda events).fp = s.fp := rfl
@[simp] theorem withAgenda_cfg (events : List Event) (s : State) : (s.withAgenda events).cfg = s.cfg := rfl
@[simp] theorem withAgenda_errIe (events : List Event) (s : State) : (s.withAgenda events).errIe = s.errIe := rfl
@[simp] theorem withAgenda_doneIe (events : List Event) (s : State) : (s.withAgenda events).doneIe = s.doneIe := rfl
@[simp] theorem withAgenda_busy (events : List Event) (s : State) : (s.withAgenda events).busy = s.busy := rfl
@[simp] theorem withAgenda_err (events : List Event) (s : State) : (s.withAgenda events).err = s.err := rfl
@[simp] theorem withAgenda_errCode (events : List Event) (s : State) : (s.withAgenda events).errCode = s.errCode := rfl
@[simp] theorem withAgenda_done (events : List Event) (s : State) : (s.withAgenda events).done = s.done := rfl
@[simp] theorem withAgenda_lastCmd (events : List Event) (s : State) : (s.withAgenda events).lastCmd = s.lastCmd := rfl
@[simp] theorem withAgenda_errCmd (events : List Event) (s : State) : (s.withAgenda events).errCmd = s.errCmd := rfl
@[simp] theorem withAgenda_agenda (events : List Event) (s : State) : (s.withAgenda events).agenda = events := rfl
@[simp] theorem withAgenda_response (events : List Event) (s : State) : (s.withAgenda events).response = s.response := rfl
@[simp] theorem withAgenda_rng (events : List Event) (s : State) : (s.withAgenda events).rng = s.rng := rfl
@[simp] theorem withAgenda_draws (events : List Event) (s : State) : (s.withAgenda events).draws = s.draws := rfl
@[simp] theorem withAgenda_getX (events : List Event) (s : State) (k : Nat) : (s.withAgenda events).getX k = s.getX k := rfl
@[simp] theorem withAgenda_getFp (events : List Event) (s : State) (c : Nat) : (s.withAgenda events).getFp c = s.getFp c := rfl
@[simp] theorem withAgenda_base (events : List Event) (s : State) (c : Nat) : (s.withAgenda events).base c = s.base c := rfl
@[simp] theorem withAgenda_maxExp (events : List Event) (s : State) (c : Nat) : (s.withAgenda events).maxExp c = s.maxExp c := rfl
@[simp] theorem withAgenda_modulus (events : List Event) (s : State) : (s.withAgenda events).modulus = s.modulus := rfl
@[simp] theorem withAgenda_channels (events : List Event) (s : State) : (s.withAgenda events).channels = s.channels := rfl
@[simp] theorem withAgenda_entry (events : List Event) (s : State) (c : Nat) : (s.withAgenda events).entry c = s.entry c := rfl

/-! ## resetEngine -/

@[simp] theorem resetEngine_x (s : State) : (s.resetEngine).x = State.reset.x := rfl
@[simp] theorem resetEngine_fp (s : State) : (s.resetEngine).fp = State.reset.fp := rfl
@[simp] theorem resetEngine_cfg (s : State) : (s.resetEngine).cfg = State.reset.cfg := rfl
@[simp] theorem resetEngine_errIe (s : State) : (s.resetEngine).errIe = State.reset.errIe := rfl
@[simp] theorem resetEngine_doneIe (s : State) : (s.resetEngine).doneIe = State.reset.doneIe := rfl
@[simp] theorem resetEngine_busy (s : State) : (s.resetEngine).busy = State.reset.busy := rfl
@[simp] theorem resetEngine_err (s : State) : (s.resetEngine).err = State.reset.err := rfl
@[simp] theorem resetEngine_errCode (s : State) : (s.resetEngine).errCode = State.reset.errCode := rfl
@[simp] theorem resetEngine_done (s : State) : (s.resetEngine).done = State.reset.done := rfl
@[simp] theorem resetEngine_lastCmd (s : State) : (s.resetEngine).lastCmd = State.reset.lastCmd := rfl
@[simp] theorem resetEngine_errCmd (s : State) : (s.resetEngine).errCmd = State.reset.errCmd := rfl
@[simp] theorem resetEngine_agenda (s : State) : (s.resetEngine).agenda = s.agenda := rfl
@[simp] theorem resetEngine_response (s : State) : (s.resetEngine).response = s.response := rfl
@[simp] theorem resetEngine_rng (s : State) : (s.resetEngine).rng = s.rng := rfl
@[simp] theorem resetEngine_draws (s : State) : (s.resetEngine).draws = s.draws := rfl

end Sys2Proof.Machine
end

