-- ==== Sys2Proof/Laws/Operands.lean ====
section
/-! SUPPORT. What the operand operations do: registers, pairs, tuples, channels, moduli and the modular power. -/

namespace Sys2Proof.Machine

/-! ## Registers -/

theorem getX_setX (s : State) (n m : Nat) (v : Val) :
    (s.setX n v).getX m = if n = m ∧ n < 16 then v else s.getX m := by
  unfold State.getX State.setX
  by_cases h : n = m
  · subst h
    by_cases hn : n < 16 <;> simp [hn]
  · simp [h]

@[simp] theorem getX_setX_same (s : State) {n : Nat} (v : Val) (h : n < 16) : (s.setX n v).getX n = v := by
  simp [getX_setX, h]

theorem getX_setX_ne (s : State) {n m : Nat} (v : Val) (h : n ≠ m) : (s.setX n v).getX m = s.getX m := by
  simp [getX_setX, h]

/-- Two states have the same value registers if every one reads the same. -/
theorem x_ext {s t : State} (h : ∀ n < 16, t.getX n = s.getX n) : t.x = s.x := by
  apply Vector.ext
  intro i hi
  have := h i hi
  simpa [State.getX, Vector.getElem?_eq_getElem hi] using this

/-- Two states have the same fingerprint registers if every one reads the same. -/
theorem fp_ext {s t : State} (h : ∀ c < 4, t.getFp c = s.getFp c) : t.fp = s.fp := by
  apply Vector.ext
  intro i hi
  have := h i hi
  simpa [State.getFp, Vector.getElem?_eq_getElem hi] using this

theorem getPair_toNat (s : State) (n : Nat) :
    (s.getPair n).toNat = (s.getX (n + 1)).toNat * 2 ^ 128 + (s.getX n).toNat := by
  unfold State.getPair
  rw [BitVec.toNat_append, ← Nat.shiftLeft_add_eq_or_of_lt (s.getX n).isLt, Nat.shiftLeft_eq]

theorem getX_setPair_low (s : State) {n : Nat} (v : BitVec 256) (h : n < 16) :
    (s.setPair n v).getX n = v.extractLsb' 0 128 := by
  simp [State.setPair, getX_setX, h]

theorem getX_setPair_high (s : State) {n : Nat} (v : BitVec 256) (h : n + 1 < 16) :
    (s.setPair n v).getX (n + 1) = v.extractLsb' 128 128 := by
  simp [State.setPair, h]

theorem getX_setPair_ne (s : State) {n m : Nat} (v : BitVec 256) (h : n ≠ m) (h' : n + 1 ≠ m) :
    (s.setPair n v).getX m = s.getX m := by
  simp [State.setPair, getX_setX, h, h']

/-- A pair reads back as it was written. -/
theorem getPair_setPair (s : State) {n : Nat} (v : BitVec 256) (h : n + 1 < 16) :
    (s.setPair n v).getPair n = v := by
  have hn : n < 16 := by omega
  apply BitVec.eq_of_toNat_eq
  rw [getPair_toNat, getX_setPair_low s v hn, getX_setPair_high s v h]
  simp only [BitVec.extractLsb'_toNat, Nat.shiftRight_eq_div_pow]
  have := v.isLt
  omega

/-- The fields a pair write leaves alone. -/
theorem setPair_eq (s : State) (n : Nat) (v : BitVec 256) :
    s.setPair n v = { s with x := (s.setPair n v).x } := rfl

/-- The fields a tuple write leaves alone. -/
theorem setTuple_eq (vs : List Val) (n : Nat) (s : State) :
    State.setTuple n vs s = { s with x := (State.setTuple n vs s).x } := by
  induction vs generalizing n s with
  | nil => rfl
  | cons v vs ih => rw [State.setTuple, ih]; rfl

theorem getX_setTuple (vs : List Val) (n m : Nat) (s : State) (hm : m < 16) :
    (State.setTuple n vs s).getX m
      = if n ≤ m ∧ m < n + vs.length then vs.getD (m - n) 0 else s.getX m := by
  induction vs generalizing n s with
  | nil =>
    have h : ¬ (n ≤ m ∧ m < n + ([] : List Val).length) := by simp
    rw [if_neg h, State.setTuple]
  | cons v vs ih =>
    rw [State.setTuple, ih, getX_setX]
    by_cases h : n = m
    · subst h
      simp [hm]
    · by_cases h2 : n + 1 ≤ m ∧ m < n + 1 + vs.length
      · have h3 : n ≤ m ∧ m < n + (v :: vs).length := by simp; omega
        have h4 : m - n = (m - (n + 1)) + 1 := by omega
        rw [if_pos h2, if_pos h3, h4, List.getD_cons_succ]
      · have h3 : ¬ (n ≤ m ∧ m < n + (v :: vs).length) := by simp; omega
        rw [if_neg h2, if_neg h3, if_neg (by tauto)]

@[simp] theorem getTuple_length (s : State) (n k : Nat) : (s.getTuple n k).length = k := by
  simp [State.getTuple]

theorem getTuple_getD (s : State) (n : Nat) {k c : Nat} (h : c < k) :
    (s.getTuple n k).getD c 0 = s.getX (n + c) := by
  simp [State.getTuple, h]

theorem mem_getTuple (s : State) (n k : Nat) (v : Val) :
    v ∈ s.getTuple n k ↔ ∃ c < k, s.getX (n + c) = v := by
  simp [State.getTuple]

theorem tuplePastEnd_eq_false (n k : Nat) : tuplePastEnd n k = false ↔ n + k - 1 ≤ 15 := by
  simp [tuplePastEnd]

/-! ## Channels -/

theorem perChannel_getElem {α : Type} (f : Nat → α) (c : Nat) (h : c < 4) : (perChannel f)[c] = f c := by
  unfold perChannel
  interval_cases c <;> rfl

theorem perChannel_getElem? {α : Type} (f : Nat → α) {c : Nat} (h : c < 4) :
    (perChannel f)[c]? = some (f c) := by
  rw [Vector.getElem?_eq_getElem h, perChannel_getElem f c h]

theorem getFp_setFps_perChannel (f : Nat → Val) (s : State) {c : Nat} (h : c < 4) :
    (s.setFps (perChannel f)).getFp c = f c := by
  simp [State.getFp, perChannel_getElem? f h]

theorem WSel.channels_bounds (w : WSel) : 1 ≤ w.channels ∧ w.channels ≤ 4 := by
  cases w <;> simp [Sys2Proof.WSel.channels]

theorem channels_pos (s : State) : 1 ≤ s.channels := (WSel.channels_bounds s.cfg.wsel).1

theorem channels_le (s : State) : s.channels ≤ 4 := (WSel.channels_bounds s.cfg.wsel).2

/-! ## Moduli -/

theorem Width.bits_bounds (w : Width) : 61 ≤ w.bits ∧ w.bits ≤ 127 := by
  cases w <;> simp [Sys2Proof.Width.bits]

theorem Width.modulus_bounds (w : Width) : 2 ^ 61 - 1 ≤ w.modulus ∧ w.modulus ≤ 2 ^ 127 - 1 := by
  cases w <;> simp [Sys2Proof.Width.modulus, Sys2Proof.Width.bits]

theorem Width.modulus_pos (w : Width) : 0 < w.modulus := by
  have := Width.modulus_bounds w; omega

theorem modulus_bounds (s : State) : 2 ^ 61 - 1 ≤ s.modulus ∧ s.modulus ≤ 2 ^ 127 - 1 :=
  Width.modulus_bounds s.cfg.wsel.width

theorem modulus_pos (s : State) : 0 < s.modulus := Width.modulus_pos s.cfg.wsel.width

theorem Width.modulus_sq_le (w : Width) : w.modulus * w.modulus ≤ 2 ^ 254 :=
  calc w.modulus * w.modulus ≤ 2 ^ 127 * 2 ^ 127 := Nat.mul_le_mul (by have := (Width.modulus_bounds w).2; omega)
        (by have := (Width.modulus_bounds w).2; omega)
    _ = 2 ^ 254 := by norm_num

/-- The bound of a product and a carry of field elements (40_arith.md R151). -/
theorem mul_add_le {p a b c : Nat} (ha : a < p) (hb : b < p) (hc : c < p) : a * b + c ≤ p * p - p := by
  obtain ⟨q, rfl⟩ : ∃ q, p = q + 1 := ⟨p - 1, by omega⟩
  have h1 : a * b ≤ q * q := Nat.mul_le_mul (by omega) (by omega)
  have h2 : (q + 1) * (q + 1) = q * q + q + (q + 1) := by ring
  omega

/-! ## Values -/

theorem toVal_toNat (n : Nat) : (toVal n).toNat = n % 2 ^ 128 := by simp [toVal]

theorem toVal_toNat_of_lt {n : Nat} (h : n < 2 ^ 128) : (toVal n).toNat = n := by
  rw [toVal_toNat, Nat.mod_eq_of_lt h]

/-- A residue fits a register (40_arith.md R151). -/
theorem toVal_mod_modulus (w : Width) (n : Nat) : (toVal (n % w.modulus)).toNat = n % w.modulus := by
  apply toVal_toNat_of_lt
  have := Width.modulus_bounds w
  have := Nat.mod_lt n (Width.modulus_pos w)
  omega

theorem powBits_eq (p x n e : Nat) (h : e < 2 ^ n) : powBits p x n e = x ^ e % p := by
  induction n generalizing e with
  | zero =>
    have : e = 0 := by simpa using h
    subst this
    simp [powBits]
  | succ n ih =>
    have h2 : e / 2 < 2 ^ n := by rw [pow_succ] at h; omega
    rw [powBits, ih _ h2, squareStep]
    rcases Nat.mod_two_eq_zero_or_one e with he | he
    · have hx : x ^ e = x ^ (e / 2) * x ^ (e / 2) := by rw [← pow_add]; congr 1; omega
      simp [he, hx, Nat.mul_mod]
    · have hx : x ^ e = x ^ (e / 2) * x ^ (e / 2) * x := by
        rw [← pow_add, ← pow_succ]; congr 1; omega
      simp [he, hx, Nat.mul_mod]

/-- Repeated squaring computes the power (40_arith.md R148). -/
theorem powMod_eq (p x e : Nat) (h : e < 2 ^ 128) : powMod p x e = x ^ e % p := powBits_eq p x 128 e h

end Sys2Proof.Machine
end

