-- ==== Sys2Proof/Laws/Ops.lean ====
section
/-! SUPPORT. What the shared operations do, said once: how a command ends, the entropy source, the tables. -/

namespace Sys2Proof.Machine

/-! ## How a command ends -/

@[simp] theorem firstError_nil : firstError [] = none := rfl

@[simp] theorem firstError_cons (b : Bool) (e : ErrCode) (cs : List Check) :
    firstError ((b, e) :: cs) = if b then some e else firstError cs := rfl

/-- The codes a list of checks can give. -/
theorem firstError_mem {cs : List Check} {e : ErrCode} (h : firstError cs = some e) : (true, e) ∈ cs := by
  induction cs with
  | nil => simp at h
  | cons c cs ih =>
    obtain ⟨b, e'⟩ := c
    cases b
    · simp at h; simp [ih h]
    · simp at h; simp [h]

/-- Everything a command can do: it ends in the error of its first failing check, or makes its writes and
completes. -/
theorem runCommand_cases (w : Word) (cs : List Check) (f : State → State) (s : State) :
    (∃ e, firstError cs = some e ∧ runCommand w cs f s = .next (s.raiseError w e)) ∨
    (firstError cs = none ∧ runCommand w cs f s = .next ((f s).complete w)) := by
  unfold runCommand
  cases h : firstError cs with
  | none => exact .inr ⟨rfl, rfl⟩
  | some e => exact .inl ⟨e, rfl, rfl⟩

theorem runCommand_error {w : Word} {cs : List Check} {e : ErrCode} (f : State → State) (s : State)
    (h : firstError cs = some e) : runCommand w cs f s = .next (s.raiseError w e) := by
  simp [runCommand, h]

theorem runCommand_ok {w : Word} {cs : List Check} (f : State → State) (s : State)
    (h : firstError cs = none) : runCommand w cs f s = .next ((f s).complete w) := by
  simp [runCommand, h]

theorem raiseError_endsInError (w : Word) (e : ErrCode) (s : State) : EndsInError w e s (s.raiseError w e) := by
  simp [EndsInError]

/-- A command completes with the completion record if its writes touch nothing the record keeps. -/
theorem complete_completes (w : Word) {s t : State} (h1 : t.err = s.err) (h2 : t.errCode = s.errCode)
    (h3 : t.errCmd = s.errCmd) (h4 : t.errIe = s.errIe) (h5 : t.doneIe = s.doneIe)
    (h6 : t.agenda = s.agenda) (h7 : t.response = s.response) : Completes w s (t.complete w) := by
  simp [Completes, h1, h2, h3, h4, h5, h6, h7]

/-! ## The entropy source -/

/-- A value the rejection sampling accepts is in [1, p - 1] (20_memory.md R72). -/
theorem acceptWord_range {w : Width} {es rest : List EntropyWord} {v : Nat}
    (h : acceptWord w es = some (v, rest)) : 1 ≤ v ∧ v ≤ w.modulus - 1 := by
  induction es with
  | nil => simp [acceptWord] at h
  | cons e es ih =>
    unfold acceptWord at h
    split at h
    · rename_i hv
      simp only [Option.some.injEq, Prod.mk.injEq] at h
      exact h.1 ▸ hv
    · exact ih h

/-- A drawn value is in [1, p - 1], whatever the source gives. -/
theorem drawNonzero_range (w : Width) (s : State) :
    1 ≤ (s.drawNonzero w).1 ∧ (s.drawNonzero w).1 ≤ w.modulus - 1 := by
  unfold State.drawNonzero
  split
  · rename_i h; exact acceptWord_range h
  · have := Width.modulus_bounds w
    have := Nat.mod_lt (Config.freeDraw s.draws).toNat (show 0 < w.modulus - 1 by omega)
    simp only
    omega

/-- A draw changes nothing but the entropy source's side. -/
theorem drawNonzero_takes (w : Width) (s : State) :
    ∃ rest used, (s.drawNonzero w).2 = s.takeWords rest used := by
  unfold State.drawNonzero
  split
  · exact ⟨_, _, rfl⟩
  · exact ⟨_, _, rfl⟩

theorem takeWords_takeWords (s : State) (r r' : List EntropyWord) (u u' : Nat) :
    (s.takeWords r u).takeWords r' u' = s.takeWords r' (u + u') := by
  simp [State.takeWords, Nat.add_assoc]

/-- Many draws change nothing but the entropy source's side. -/
theorem drawMany_takes (w : Width) (k : Nat) (s : State) :
    ∃ rest used, (s.drawMany w k).2 = s.takeWords rest used := by
  induction k generalizing s with
  | zero => exact ⟨s.rng, 0, rfl⟩
  | succ k ih =>
    obtain ⟨r, u, h⟩ := drawNonzero_takes w s
    obtain ⟨r', u', h'⟩ := ih (s.drawNonzero w).2
    refine ⟨r', u + u', ?_⟩
    simp only [State.drawMany]
    rw [h', h, takeWords_takeWords]

@[simp] theorem drawMany_length (w : Width) (k : Nat) (s : State) : (s.drawMany w k).1.length = k := by
  induction k generalizing s with
  | zero => rfl
  | succ k ih => simp [State.drawMany, ih]

/-- Every one of many drawn values is in [1, p - 1]. -/
theorem drawMany_range (w : Width) (k : Nat) (s : State) :
    ∀ v ∈ (s.drawMany w k).1, 1 ≤ v ∧ v ≤ w.modulus - 1 := by
  induction k generalizing s with
  | zero => simp [State.drawMany]
  | succ k ih =>
    intro v hv
    simp only [State.drawMany, List.mem_cons] at hv
    rcases hv with rfl | hv
    · exact drawNonzero_range w s
    · exact ih _ v hv

/-! ## Tables -/

theorem buildTable_getElem (p m a : Nat) (h : a < 256) :
    (buildTable p m)[a] = toVal ((p - a * m % p) % p) := by
  simp [buildTable]

/-- A row head plus the arriving byte is the closed form of 41_table.md R172. -/
theorem tableValue_buildTable (w : Width) (m : Nat) (a b : Byte) :
    (tableValue w.modulus (buildTable w.modulus m) a b).toNat
      = (w.modulus - a.toNat * m % w.modulus + b.toNat) % w.modulus := by
  unfold tableValue
  rw [toVal_mod_modulus, buildTable_getElem, toVal_mod_modulus, Nat.mod_add_mod]

end Sys2Proof.Machine
end

