-- ==== Sys2Proof/Laws/Table.lean ====
section
/-! SUPPORT. What the commit of a CONFIG leaves (41_table.md R170 to R173), read through the accessors. -/

namespace Sys2Proof.Machine

variable {ws : WSel} {tau : Nat} {bases : List Nat} {s : State} {c : Nat}

@[simp] theorem commit_configure_modulus : (s.commit (configure ws tau bases)).modulus = ws.modulus := rfl

@[simp] theorem commit_configure_channels : (s.commit (configure ws tau bases)).channels = ws.channels := rfl

@[simp] theorem commit_configure_valid : (s.commit (configure ws tau bases)).cfg.valid = true := rfl

@[simp] theorem commit_configure_wsel : (s.commit (configure ws tau bases)).cfg.wsel = ws := rfl

@[simp] theorem commit_configure_tau (h : tau < 2 ^ 64) :
    (s.commit (configure ws tau bases)).cfg.tau.toNat = tau := by
  simp only [State.commit, configure, BitVec.toNat_ofNat]
  exact Nat.mod_eq_of_lt h

theorem commit_configure_base (h : c < ws.channels) :
    (s.commit (configure ws tau bases)).base c = toVal (bases.getD c 0) := by
  have := (WSel.channels_bounds ws).2
  simp [State.base, State.commit, configure, perChannel_getElem? _ (show c < 4 by omega), h]

theorem commit_configure_maxExp (h : c < ws.channels) :
    (s.commit (configure ws tau bases)).maxExp c = toVal (powMod ws.modulus (bases.getD c 0) tau) := by
  have := (WSel.channels_bounds ws).2
  simp [State.maxExp, State.commit, configure, perChannel_getElem? _ (show c < 4 by omega), h]

theorem commit_configure_unused (h : c < 4) (hk : ws.channels ≤ c) :
    ChannelUnused (s.commit (configure ws tau bases)) c := by
  simp [ChannelUnused, State.base, State.maxExp, State.commit, configure, perChannel_getElem? _ h,
    Nat.not_lt.mpr hk]

theorem commit_configure_table (h : c < ws.channels) :
    (s.commit (configure ws tau bases)).cfg.table[c]?.getD none
      = some (buildTable ws.modulus (powMod ws.modulus (bases.getD c 0) tau)) := by
  have := (WSel.channels_bounds ws).2
  simp [State.commit, configure, perChannel_getElem? _ (show c < 4 by omega), h]

/-- A committed table holds the roll deltas (41_table.md R172). -/
theorem commit_configure_entry (h : c < ws.channels) (a b : Byte) :
    ((s.commit (configure ws tau bases)).entry c a b).toNat
      = (ws.modulus - a.toNat * powMod ws.modulus (bases.getD c 0) tau % ws.modulus + b.toNat) % ws.modulus := by
  simp only [State.entry, commit_configure_table h, commit_configure_modulus]
  exact tableValue_buildTable ws.width _ a b

/-- A committed max_exp is the base to the power of the window length (R170). -/
theorem commit_configure_maxExp_toNat (h : c < ws.channels) (ht : tau < 2 ^ 64) :
    ((s.commit (configure ws tau bases)).maxExp c).toNat = bases.getD c 0 ^ tau % ws.modulus := by
  rw [commit_configure_maxExp h, powMod_eq _ _ _ (by omega)]
  exact toVal_mod_modulus ws.width _

/-- A committed base is the one given (R170). -/
theorem commit_configure_base_toNat (h : c < ws.channels) (hb : bases.getD c 0 ≤ ws.modulus - 1) :
    ((s.commit (configure ws tau bases)).base c).toNat = bases.getD c 0 := by
  rw [commit_configure_base h]
  have := Width.modulus_bounds ws.width
  exact toVal_toNat_of_lt (by unfold WSel.modulus at hb; omega)

/-- A CONFIG with a window length and bases it accepts leaves a configured state (10_state.md R30). -/
theorem commit_configure_configured (h1 : 1 ≤ tau) (h2 : tau < 2 ^ 64)
    (hb : ∀ c < ws.channels, 1 ≤ bases.getD c 0 ∧ bases.getD c 0 ≤ ws.modulus - 1) :
    Configured (s.commit (configure ws tau bases)) := by
  refine ⟨rfl, by rw [commit_configure_tau h2]; exact h1, fun c hc => ?_, fun c hc hk => ?_⟩
  · have hc' : c < ws.channels := hc
    refine ⟨by rw [commit_configure_table hc']; rfl, ?_, ?_, ?_, fun a b => ?_⟩
    · rw [commit_configure_base_toNat hc' (hb c hc').2]; exact (hb c hc').1
    · rw [commit_configure_base_toNat hc' (hb c hc').2]; exact (hb c hc').2
    · rw [commit_configure_maxExp_toNat hc' h2, commit_configure_base_toNat hc' (hb c hc').2,
        commit_configure_tau h2, commit_configure_modulus]
    · rw [commit_configure_entry hc', commit_configure_maxExp_toNat hc' h2, powMod_eq _ _ _ (by omega),
        commit_configure_modulus]
  · exact commit_configure_unused hc hk

end Sys2Proof.Machine
end

