-- ==== Sys2Proof/Laws/Exec.lean ====
section
/-! SUPPORT. What a command can do, said once for all of them; then what the engine and the machine can do in one
step. A proof about steps cites these and unfolds no meaning. -/

namespace Sys2Proof.Machine

/-! ## The writes of a command -/

/-- From s to u nothing changed but X, FP, the configuration and the entropy source's side. -/
def Quiet (s u : State) : Prop :=
  u.err = s.err ∧ u.errCode = s.errCode ∧ u.errCmd = s.errCmd ∧ u.errIe = s.errIe ∧ u.doneIe = s.doneIe ∧
  u.agenda = s.agenda ∧ u.response = s.response ∧ u.done = s.done ∧ u.lastCmd = s.lastCmd ∧ u.busy = s.busy

theorem Quiet.refl (s : State) : Quiet s s := ⟨rfl, rfl, rfl, rfl, rfl, rfl, rfl, rfl, rfl, rfl⟩

theorem quiet_setX (n : Nat) (v : Val) (s : State) : Quiet s (s.setX n v) := Quiet.refl s

theorem quiet_setPair (n : Nat) (v : BitVec 256) (s : State) : Quiet s (s.setPair n v) := Quiet.refl s

theorem quiet_setFps (v : Vector Val 4) (s : State) : Quiet s (s.setFps v) := Quiet.refl s

theorem quiet_takeWords (r : List EntropyWord) (u : Nat) (s : State) : Quiet s (s.takeWords r u) := Quiet.refl s

theorem quiet_setTuple (n : Nat) (vs : List Val) (s : State) : Quiet s (State.setTuple n vs s) := by
  rw [setTuple_eq]; exact Quiet.refl s

theorem quiet_drawInto (rd : Reg) (w : Width) (s : State) : Quiet s (drawInto rd w s) := by
  obtain ⟨r, u, h⟩ := drawNonzero_takes w s
  rw [drawInto, h]; exact Quiet.refl s

theorem quiet_configureDrawn (ws : WSel) (tau : Nat) (s : State) : Quiet s (configureDrawn ws tau s) := by
  obtain ⟨r, u, h⟩ := drawMany_takes ws.width ws.channels s
  rw [configureDrawn, h]; exact Quiet.refl s

/-- A completed command keeps what its writes keep. -/
theorem completes_of_quiet {s u : State} (w : Word) (h : Quiet s u) : Completes w s (u.complete w) := by
  obtain ⟨h1, h2, h3, h4, h5, h6, h7, -⟩ := h
  exact complete_completes w h1 h2 h3 h4 h5 h6 h7

/-- The command is a CONFIG. -/
def IsConfig (i : Instr) : Prop := (∃ rt rb w, i = .config rt rb w) ∨ ∃ rt w, i = .configRandom rt w

/-- The writes of command i from s to u. -/
def Writes (i : Instr) (s u : State) : Prop := Quiet s u ∧ (u.cfg = s.cfg ∨ Configured u ∧ IsConfig i)

theorem drawn_base_range {ws : WSel} {s : State} {c : Nat} (h : c < ws.channels) :
    1 ≤ (s.drawMany ws.width ws.channels).1.getD c 0 ∧
      (s.drawMany ws.width ws.channels).1.getD c 0 ≤ ws.modulus - 1 := by
  have hl : c < (s.drawMany ws.width ws.channels).1.length := by rw [drawMany_length]; exact h
  rw [List.getD_eq_getElem _ _ hl]
  exact drawMany_range ws.width ws.channels s _ (List.getElem_mem hl)

theorem badWindow_eq_false {v : Val} : badWindow v = false ↔ 1 ≤ v.toNat ∧ v.toNat < 2 ^ 64 := by
  simp [badWindow]; omega

theorem badBase_eq_false {ws : WSel} {v : Val} :
    badBase ws v = false ↔ 1 ≤ v.toNat ∧ v.toNat ≤ ws.modulus - 1 := by
  have : 0 < ws.width.modulus := Width.modulus_pos ws.width
  have h2 : badBase ws v = false ↔ ¬ v.toNat = 0 ∧ ¬ ws.modulus ≤ v.toNat := by simp [badBase]
  rw [h2, WSel.modulus]
  omega

/-- A command that runs behind checks raises one of their codes, or makes its writes. -/
theorem runCommand_writes {w : Word} {cs : List Check} {f : State → State} {s : State} {P : State → Prop}
    {o : Host.Outcome State Fault Refusal} (ho : o = runCommand w cs f s)
    (hc : ∀ c ∈ cs, c.2 ≠ .noError) (hf : firstError cs = none → P (f s)) :
    (∃ e, e ≠ .noError ∧ o = .next (s.raiseError w e)) ∨ ∃ u, P u ∧ o = .next (u.complete w) := by
  rw [ho]
  obtain ⟨e, he, h⟩ | ⟨he, h⟩ := runCommand_cases w cs f s
  · exact .inl ⟨e, hc _ (firstError_mem he), h⟩
  · exact .inr ⟨f s, hf he, h⟩

/-- A command whose first failing check has code e ends in e, and nothing else changes. -/
theorem exec_raises {i : Instr} {cs : List Check} {f : State → State} {s : State} {e : ErrCode}
    (hx : exec i s = runCommand (encode i) cs f s) (he : firstError cs = some e) :
    ∃ t, exec i s = .next t ∧ EndsInError (encode i) e s t :=
  ⟨_, by rw [hx, runCommand_error f s he], raiseError_endsInError _ _ _⟩

/-- A command none of whose checks fails makes its writes and completes. -/
theorem exec_completes {i : Instr} {cs : List Check} {f : State → State} {s : State}
    (hx : exec i s = runCommand (encode i) cs f s) (he : firstError cs = none) (hq : Quiet s (f s)) :
    exec i s = .next ((f s).complete (encode i)) ∧ Completes (encode i) s ((f s).complete (encode i)) :=
  ⟨by rw [hx, runCommand_ok f s he], completes_of_quiet _ hq⟩

/-- Everything a command can do: it ends in an error with the error record alone, or it makes its writes and completes. -/
theorem exec_cases (i : Instr) (s : State) :
    (∃ e, e ≠ .noError ∧ exec i s = .next (s.raiseError (encode i) e)) ∨
    ∃ u, Writes i s u ∧ exec i s = .next (u.complete (encode i)) := by
  have keep : ∀ {u : State}, Quiet s u → u.cfg = s.cfg → Writes i s u := fun h h' => ⟨h, .inl h'⟩
  cases i with
  | nop => exact runCommand_writes (show _ = runCommand _ [] id s from rfl) (by simp) fun _ => keep (Quiet.refl s) rfl
  | reduce rd rs1 sw => exact runCommand_writes rfl (by simp) fun _ => keep (quiet_setX ..) rfl
  | muladd rd rs1 rs2 rs3 sw =>
    exact runCommand_writes rfl (by simp [multiplyRange]) fun _ => keep (quiet_setPair ..) rfl
  | muladdr rd rs1 rs2 rs3 sw =>
    exact runCommand_writes rfl (by simp [multiplyRange]) fun _ => keep (quiet_setX ..) rfl
  | pow rd rs1 rs2 sw => exact runCommand_writes rfl (by simp) fun _ => keep (quiet_setX ..) rfl
  | inv rd rs1 sw => exact runCommand_writes rfl (by simp) fun _ => keep (quiet_setX ..) rfl
  | rand rd sw =>
    refine runCommand_writes (show _ = runCommand _ [] (drawInto rd sw) s from rfl) (by simp) fun _ =>
      keep (quiet_drawInto ..) ?_
    obtain ⟨r, u, h⟩ := drawNonzero_takes sw s
    rw [drawInto, h]; rfl
  | config rt rb w =>
    cases w with
    | none =>
      exact runCommand_writes (show _ = runCommand _ [(true, .badWidth)] id s from rfl) (by simp) fun h => by simp at h
    | some ws =>
      refine runCommand_writes rfl (by simp) fun h => ⟨Quiet.refl s, .inr ⟨?_, .inl ⟨_, _, _, rfl⟩⟩⟩
      simp only [firstError_cons, firstError_nil] at h
      split at h; · simp at h
      split at h; · simp at h
      rename_i hw
      split at h; · simp at h
      rename_i hb
      rw [Bool.not_eq_true, badWindow_eq_false] at hw
      refine commit_configure_configured hw.1 hw.2 fun c hc => ?_
      have : ((s.getTuple rb ws.channels).map BitVec.toNat).getD c 0 = (s.getX (rb.val + c)).toNat := by
        simp [State.getTuple, hc]
      rw [this, ← badBase_eq_false]
      rw [Bool.not_eq_true, List.any_eq_false] at hb
      exact Bool.not_eq_true _ ▸ hb _ ((mem_getTuple s _ _ _).2 ⟨c, hc, rfl⟩)
  | configRandom rt w =>
    cases w with
    | none =>
      exact runCommand_writes (show _ = runCommand _ [(true, .badWidth)] id s from rfl) (by simp) fun h => by simp at h
    | some ws =>
      refine runCommand_writes rfl (by simp) fun h =>
        ⟨quiet_configureDrawn ws _ s, .inr ⟨?_, .inr ⟨_, _, rfl⟩⟩⟩
      simp only [firstError_cons, firstError_nil] at h
      split at h; · simp at h
      rename_i hw
      rw [Bool.not_eq_true, badWindow_eq_false] at hw
      exact commit_configure_configured hw.1 hw.2 fun c hc => drawn_base_range hc
  | lookup rd ch a b => exact runCommand_writes rfl (by simp) fun _ => keep (quiet_setX ..) rfl
  | fill b => exact runCommand_writes rfl (by simp [rollChecks]) fun _ => keep (quiet_setFps ..) rfl
  | slide a b => exact runCommand_writes rfl (by simp [rollChecks]) fun _ => keep (quiet_setFps ..) rfl
  | fpclr => exact runCommand_writes (show _ = runCommand _ [] clearFp s from rfl) (by simp) fun _ => keep (quiet_setFps ..) rfl
  | fpget rd =>
    refine runCommand_writes rfl (by simp) fun _ => keep (quiet_setTuple ..) ?_
    rw [setTuple_eq]
  | fpput rs1 => exact runCommand_writes rfl (by simp) fun _ => keep (quiet_setFps ..) rfl
  | cmp rd rs1 rs2 => exact runCommand_writes rfl (by simp) fun _ => keep (quiet_setX ..) rfl
  | pack2 rd => exact runCommand_writes rfl (by simp) fun _ => keep (quiet_setX ..) rfl

/-! ## The engine -/

/-- Everything the engine can do: nothing while idle; else it ends its busy word in an error, or completes the command
the word decodes to. -/
theorem engineStep_cases (s : State) :
    (s.busy = none ∧ engineStep s = .next s) ∨
    (∃ w e, s.busy = some w ∧ decode w = .error e ∧ e ≠ .noError ∧ engineStep s = .next (s.raiseError w e)) ∨
    (∃ w i e, s.busy = some w ∧ decode w = .ok i ∧ e ≠ .noError ∧
      engineStep s = .next (s.raiseError (encode i) e)) ∨
    ∃ w i u, s.busy = some w ∧ decode w = .ok i ∧ Writes i s u ∧ engineStep s = .next (u.complete (encode i)) := by
  unfold engineStep
  cases hb : s.busy with
  | none => exact .inl ⟨rfl, rfl⟩
  | some w =>
    cases hd : decode w with
    | error e =>
      refine .inr (.inl ⟨w, e, rfl, hd, ?_, by simp [hd]⟩)
      rcases decode_cases w with ⟨_, h⟩ | ⟨_, _, ⟨_, h⟩ | ⟨_, h⟩⟩ <;> (rw [h] at hd; cases hd; try simp)
    | ok i =>
      rcases exec_cases i s with ⟨e, he, h⟩ | ⟨u, hu, h⟩
      · exact .inr (.inr (.inl ⟨w, i, e, rfl, hd, he, by simpa [hd] using h⟩))
      · exact .inr (.inr (.inr ⟨w, i, u, rfl, hd, hu, by simpa [hd] using h⟩))

/-! ## The step -/

/-- Everything a step can do: the engine's turn, a moment of reset, or one access. -/
theorem step_cases (s : State) :
    (s.agenda = [] ∧ step s = engineStep s) ∨
    (∃ rest, s.agenda = .complete :: rest ∧ step s = engineStep (s.withAgenda rest)) ∨
    (∃ rest, s.agenda = .resetLow :: rest ∧ step s = .next (s.withAgenda rest).pinReset) ∨
    (∃ a rest, s.agenda = .access a :: rest ∧ s.busyBit = true ∧ a.held = true ∧ step s = engineStep s) ∨
    ∃ a rest, s.agenda = .access a :: rest ∧ (s.busyBit && a.held) = false ∧
      step s = .next ((s.withAgenda rest).completeAccess a) := by
  unfold step
  match h : s.agenda with
  | [] => exact .inl ⟨rfl, rfl⟩
  | .complete :: rest => exact .inr (.inl ⟨rest, rfl, rfl⟩)
  | .resetLow :: rest => exact .inr (.inr (.inl ⟨rest, rfl, rfl⟩))
  | .access a :: rest =>
    by_cases hh : (s.busyBit && a.held) = true
    · have hh' := hh
      rw [Bool.and_eq_true] at hh'
      exact .inr (.inr (.inr (.inl ⟨a, rest, rfl, hh'.1, hh'.2, by simp only [hh, if_true]⟩)))
    · exact .inr (.inr (.inr (.inr ⟨a, rest, rfl, by simpa using hh, by simp only [hh]; rfl⟩)))

end Sys2Proof.Machine
end

