-- ==== Sys2Proof/Laws/Port.lean ====
section
/-! SUPPORT. The register window said once: what each offset names, what an access does, and the words of a 128-bit
register (20_memory.md R65, R66, 10_state.md R46). -/

namespace Sys2Proof.Machine

/-! ## The map -/

/-- The register below 0x100 at an offset, case by case. -/
theorem lowPortReg_cases (off : Nat) :
    (off = 0x000 ∧ lowPortReg off = .id) ∨
    (off = 0x004 ∧ lowPortReg off = .ctrl) ∨
    (off = 0x008 ∧ lowPortReg off = .status) ∨
    (off = 0x00C ∧ lowPortReg off = .cmd) ∨
    (off = 0x010 ∧ lowPortReg off = .errCmd) ∨
    (off = 0x014 ∧ lowPortReg off = .cfgInfo) ∨
    (off = 0x018 ∧ lowPortReg off = .cfgTau 0) ∨
    (off = 0x01C ∧ lowPortReg off = .cfgTau 1) ∨
    (off = 0x020 ∧ lowPortReg off = .crate 0) ∨
    (off = 0x024 ∧ lowPortReg off = .crate 1) ∨
    (off ≠ 0x000 ∧ off ≠ 0x004 ∧ off ≠ 0x008 ∧ off ≠ 0x00C ∧ off ≠ 0x010 ∧
      off ≠ 0x014 ∧ off ≠ 0x018 ∧ off ≠ 0x01C ∧ off ≠ 0x020 ∧ off ≠ 0x024 ∧ lowPortReg off = .reserved) := by
  unfold lowPortReg
  by_cases h0 : off = 0x000
  · exact .inl ⟨h0, if_pos h0⟩
  rw [if_neg h0]
  right
  by_cases h1 : off = 0x004
  · exact .inl ⟨h1, if_pos h1⟩
  rw [if_neg h1]
  right
  by_cases h2 : off = 0x008
  · exact .inl ⟨h2, if_pos h2⟩
  rw [if_neg h2]
  right
  by_cases h3 : off = 0x00C
  · exact .inl ⟨h3, if_pos h3⟩
  rw [if_neg h3]
  right
  by_cases h4 : off = 0x010
  · exact .inl ⟨h4, if_pos h4⟩
  rw [if_neg h4]
  right
  by_cases h5 : off = 0x014
  · exact .inl ⟨h5, if_pos h5⟩
  rw [if_neg h5]
  right
  by_cases h6 : off = 0x018
  · exact .inl ⟨h6, if_pos h6⟩
  rw [if_neg h6]
  right
  by_cases h7 : off = 0x01C
  · exact .inl ⟨h7, if_pos h7⟩
  rw [if_neg h7]
  right
  by_cases h8 : off = 0x020
  · exact .inl ⟨h8, if_pos h8⟩
  rw [if_neg h8]
  right
  by_cases h9 : off = 0x024
  · exact .inl ⟨h9, if_pos h9⟩
  rw [if_neg h9]
  right
  exact ⟨h0, h1, h2, h3, h4, h5, h6, h7, h8, h9, rfl⟩

/-- The register at an offset, window by window. -/
theorem portReg_cases (off : Nat) :
    (off < 0x100 ∧ portReg off = lowPortReg off) ∨
    (0x100 ≤ off ∧ off < 0x200 ∧ portReg off = .x ((off - 0x100) / 16) (off % 16 / 4)) ∨
    (0x200 ≤ off ∧ off < 0x240 ∧ portReg off = .fp ((off - 0x200) / 16) (off % 16 / 4)) ∨
    (0x240 ≤ off ∧ off < 0x300 ∧ portReg off = .reserved) ∨
    (0x300 ≤ off ∧ off < 0x340 ∧ portReg off = .cfgBase ((off - 0x300) / 16) (off % 16 / 4)) ∨
    (0x340 ≤ off ∧ off < 0x380 ∧ portReg off = .cfgMaxExp ((off - 0x340) / 16) (off % 16 / 4)) ∨
    (0x380 ≤ off ∧ portReg off = .reserved) := by
  unfold portReg
  by_cases h0 : off < 0x100
  · exact .inl ⟨h0, if_pos h0⟩
  rw [if_neg h0]
  right
  by_cases h1 : off < 0x200
  · exact .inl ⟨by omega, h1, if_pos h1⟩
  rw [if_neg h1]
  right
  by_cases h2 : off < 0x240
  · exact .inl ⟨by omega, h2, if_pos h2⟩
  rw [if_neg h2]
  right
  by_cases h3 : off < 0x300
  · exact .inl ⟨by omega, h3, if_pos h3⟩
  rw [if_neg h3]
  right
  by_cases h4 : off < 0x340
  · exact .inl ⟨by omega, h4, if_pos h4⟩
  rw [if_neg h4]
  right
  by_cases h5 : off < 0x380
  · exact .inl ⟨by omega, h5, if_pos h5⟩
  rw [if_neg h5]
  right
  exact ⟨by omega, rfl⟩

theorem portReg_x {i j : Nat} (hi : i < 16) (hj : j < 4) : portReg (0x100 + 16 * i + 4 * j) = .x i j := by
  unfold portReg
  rw [if_neg (by omega), if_pos (by omega)]
  congr 1 <;> omega

theorem portReg_fp {c j : Nat} (hc : c < 4) (hj : j < 4) : portReg (0x200 + 16 * c + 4 * j) = .fp c j := by
  unfold portReg
  rw [if_neg (by omega), if_neg (by omega), if_pos (by omega)]
  congr 1 <;> omega

theorem portReg_cfgBase {c j : Nat} (hc : c < 4) (hj : j < 4) :
    portReg (0x300 + 16 * c + 4 * j) = .cfgBase c j := by
  unfold portReg
  rw [if_neg (by omega), if_neg (by omega), if_neg (by omega), if_neg (by omega), if_pos (by omega)]
  congr 1 <;> omega

theorem portReg_cfgMaxExp {c j : Nat} (hc : c < 4) (hj : j < 4) :
    portReg (0x340 + 16 * c + 4 * j) = .cfgMaxExp c j := by
  unfold portReg
  rw [if_neg (by omega), if_neg (by omega), if_neg (by omega), if_neg (by omega), if_neg (by omega),
    if_pos (by omega)]
  congr 1 <;> omega

/-! ## Accesses -/

theorem legal_iff (a : Access) : a.legal = true ↔ a.size = 2 ∧ a.addr.toNat % 4 = 0 := by
  simp [Access.legal]

/-- The access of MemWrite or MemRead at an offset of the window. -/
theorem access_at {write : Bool} {off : Nat} {v : Word} (h : off < 1024) (h4 : off % 4 = 0) :
    (Access.mk write (BitVec.ofNat 10 off) 2 v).legal = true ∧
      (Access.mk write (BitVec.ofNat 10 off) 2 v).reg = portReg off := by
  have e : (BitVec.ofNat 10 off).toNat = off := by rw [BitVec.toNat_ofNat]; omega
  exact ⟨(legal_iff _).2 ⟨rfl, by rw [e]; exact h4⟩, by rw [Access.reg, e]⟩

/-- One access: a bus error, a read or a write. -/
theorem completeAccess_cases (a : Access) (s : State) :
    (a.legal = false ∧ s.completeAccess a = s.respond ⟨if a.write then none else some 0, true⟩) ∨
    (a.legal = true ∧ a.write = false ∧ s.completeAccess a = s.respond ⟨some (s.readReg a.reg), false⟩) ∨
    (a.legal = true ∧ a.write = true ∧
      s.completeAccess a = (s.writeReg a.wdata a.reg).respond ⟨none, false⟩) := by
  unfold State.completeAccess
  cases hl : a.legal
  · exact .inl ⟨rfl, rfl⟩
  · cases hw : a.write
    · exact .inr (.inl ⟨rfl, rfl, rfl⟩)
    · exact .inr (.inr ⟨rfl, rfl, rfl⟩)

/-- What a write of a register can do. -/
theorem writeReg_cases (w : Word) (s : State) (r : PortReg) :
    s.writeReg w r = s ∨
    (r = .ctrl ∧ w.getLsbD 0 = true ∧ s.writeReg w r = s.resetEngine) ∨
    (r = .ctrl ∧ w.getLsbD 0 = false ∧ s.writeReg w r = s.setEnables (w.getLsbD 1) (w.getLsbD 2)) ∨
    (r = .status ∧ w.getLsbD 2 = true ∧ w.getLsbD 3 = true ∧ s.writeReg w r = s.clearError.clearDone) ∨
    (r = .status ∧ w.getLsbD 2 = true ∧ w.getLsbD 3 = false ∧ s.writeReg w r = s.clearError) ∨
    (r = .status ∧ w.getLsbD 2 = false ∧ w.getLsbD 3 = true ∧ s.writeReg w r = s.clearDone) ∨
    (r = .cmd ∧ s.err = false ∧ s.writeReg w r = s.accept w) ∨
    (∃ i j, r = .x i j ∧ s.writeReg w r = s.setX i (setValWord (s.getX i) j w)) ∨
    ∃ c j, r = .fp c j ∧ s.writeReg w r = s.setFps (s.fp.setIfInBounds c (setValWord (s.getFp c) j w)) := by
  cases r with
  | ctrl =>
    rw [show s.writeReg w .ctrl = s.writeCtrl w from rfl, State.writeCtrl]
    cases h : w.getLsbD 0
    · exact .inr (.inr (.inl ⟨rfl, rfl, rfl⟩))
    · exact .inr (.inl ⟨rfl, rfl, rfl⟩)
  | status =>
    rw [show s.writeReg w .status = s.writeStatus w from rfl, State.writeStatus]
    cases h2 : w.getLsbD 2 <;> cases h3 : w.getLsbD 3
    · exact .inl rfl
    · exact .inr (.inr (.inr (.inr (.inr (.inl ⟨rfl, rfl, rfl, rfl⟩)))))
    · exact .inr (.inr (.inr (.inr (.inl ⟨rfl, rfl, rfl, rfl⟩))))
    · exact .inr (.inr (.inr (.inl ⟨rfl, rfl, rfl, rfl⟩)))
  | cmd =>
    rw [show s.writeReg w .cmd = s.offerCommand w from rfl, State.offerCommand]
    cases h : s.err
    · exact .inr (.inr (.inr (.inr (.inr (.inr (.inl ⟨rfl, rfl, rfl⟩))))))
    · exact .inl rfl
  | x i j => exact .inr (.inr (.inr (.inr (.inr (.inr (.inr (.inl ⟨i, j, rfl, rfl⟩)))))))
  | fp c j => exact .inr (.inr (.inr (.inr (.inr (.inr (.inr (.inr ⟨c, j, rfl, rfl⟩)))))))
  | id => exact .inl rfl
  | errCmd => exact .inl rfl
  | cfgInfo => exact .inl rfl
  | cfgTau j => exact .inl rfl
  | crate j => exact .inl rfl
  | cfgBase c j => exact .inl rfl
  | cfgMaxExp c j => exact .inl rfl
  | reserved => exact .inl rfl

/-! ## The words of a 128-bit register -/

theorem valWord_eq_ofNat (v : Val) (j : Nat) : valWord v j = BitVec.ofNat 32 (v.toNat / 2 ^ (32 * j) % 2 ^ 32) := by
  apply BitVec.eq_of_toNat_eq
  simp [valWord, Nat.shiftRight_eq_div_pow]

theorem valWord_toNat (v : Val) (j : Nat) : (valWord v j).toNat = v.toNat / 2 ^ (32 * j) % 2 ^ 32 := by
  rw [valWord_eq_ofNat, BitVec.toNat_ofNat]
  omega

theorem getLsbD_lowWord (k : Nat) : (0xFFFFFFFF#128).getLsbD k = decide (k < 32) := by
  by_cases h : k < 32
  · interval_cases k <;> rfl
  · rw [decide_eq_false h, BitVec.getLsbD, BitVec.toNat_ofNat, Nat.testBit_lt_two_pow]
    exact lt_of_lt_of_le (by decide : _ < 2 ^ 32) (Nat.pow_le_pow_right (by omega) (by omega))

/-- The bits of a register one word of which is replaced. -/
theorem getLsbD_setValWord (v : Val) (j : Nat) (w : Word) {i : Nat} (hi : i < 128) :
    (setValWord v j w).getLsbD i
      = if 32 * j ≤ i ∧ i < 32 * j + 32 then w.getLsbD (i - 32 * j) else v.getLsbD i := by
  unfold setValWord
  simp only [BitVec.getLsbD_or, BitVec.getLsbD_and, BitVec.getLsbD_not, BitVec.getLsbD_shiftLeft,
    BitVec.zeroExtend, BitVec.getLsbD_setWidth, getLsbD_lowWord]
  split_ifs with h
  · have e1 : ¬ i < 32 * j := by omega
    have e2 : i - 32 * j < 32 := by omega
    have e3 : i - 32 * j < 128 := by omega
    simp [hi, e1, e2, e3]
  · by_cases e1 : i < 32 * j
    · simp [hi, e1]
    · have e2 : ¬ i - 32 * j < 32 := by omega
      have e4 : w.getLsbD (i - 32 * j) = false := BitVec.getLsbD_of_ge w _ (by omega)
      simp [hi, e1, e2, e4]

/-- The replaced word reads back. -/
theorem valWord_setValWord_same (v : Val) {j : Nat} (hj : j < 4) (w : Word) : valWord (setValWord v j w) j = w := by
  apply BitVec.eq_of_getLsbD_eq
  intro i hi
  rw [valWord, BitVec.getLsbD_extractLsb', getLsbD_setValWord v j w (by omega), if_pos (by omega)]
  simp [hi]

/-- The other words stay. -/
theorem valWord_setValWord_ne (v : Val) {j k : Nat} (hk : k < 4) (h : k ≠ j) (w : Word) :
    valWord (setValWord v j w) k = valWord v k := by
  apply BitVec.eq_of_getLsbD_eq
  intro i hi
  rw [valWord, BitVec.getLsbD_extractLsb', getLsbD_setValWord v j w (by omega), if_neg (by omega), valWord,
    BitVec.getLsbD_extractLsb']

/-! ## The reset state as the host reads it -/

theorem replicate_getD (n k : Nat) : (Vector.replicate n (0 : Val))[k]?.getD 0 = 0 := by
  by_cases h : k < n <;> simp [h]

@[simp] theorem resetEngine_getX (s : State) (n : Nat) : s.resetEngine.getX n = 0 := by
  rw [State.getX, resetEngine_x, show State.reset.x = Vector.replicate 16 0 from rfl, replicate_getD]

@[simp] theorem resetEngine_getFp (s : State) (c : Nat) : s.resetEngine.getFp c = 0 := by
  rw [State.getFp, resetEngine_fp, show State.reset.fp = Vector.replicate 4 0 from rfl, replicate_getD]

@[simp] theorem resetEngine_base (s : State) (c : Nat) : s.resetEngine.base c = 0 := by
  rw [State.base, resetEngine_cfg, show State.reset.cfg.base = Vector.replicate 4 0 from rfl, replicate_getD]

@[simp] theorem resetEngine_maxExp (s : State) (c : Nat) : s.resetEngine.maxExp c = 0 := by
  rw [State.maxExp, resetEngine_cfg, show State.reset.cfg.maxExp = Vector.replicate 4 0 from rfl, replicate_getD]

theorem valWord_zero (j : Nat) : valWord 0 j = 0 := by
  rw [valWord_eq_ofNat]
  simp

/-- In the reset state every register reads 0 but ID (70_reset_and_hazards.md R261). -/
theorem readReg_resetEngine (s : State) (r : PortReg) :
    s.resetEngine.readReg r = if r = .id then idWord else 0 := by
  cases r with
  | id => exact (if_pos rfl).symm
  | x i j => rw [State.readReg, resetEngine_getX, valWord_zero, if_neg (by simp)]
  | fp c j => rw [State.readReg, resetEngine_getFp, valWord_zero, if_neg (by simp)]
  | cfgBase c j => rw [State.readReg, resetEngine_base, valWord_zero, if_neg (by simp)]
  | cfgMaxExp c j => rw [State.readReg, resetEngine_maxExp, valWord_zero, if_neg (by simp)]
  | cfgTau j =>
    rw [State.readReg, resetEngine_cfg, show State.reset.cfg.tau = 0 from rfl, if_neg (by simp)]
    apply BitVec.eq_of_toNat_eq
    simp
  | crate j =>
    rw [State.readReg, State.crate, resetEngine_cfg, show State.reset.cfg.valid = false from rfl, if_neg (by simp),
      if_neg (by simp)]
    apply BitVec.eq_of_toNat_eq
    simp
  | ctrl =>
    rw [State.readReg, State.ctrlWord, resetEngine_errIe, resetEngine_doneIe, if_neg (by simp)]
    decide
  | status =>
    rw [State.readReg, State.statusWord, State.busyBit, resetEngine_busy, resetEngine_err, resetEngine_errCode,
      resetEngine_done, resetEngine_cfg, if_neg (by simp)]
    decide
  | cmd => rw [if_neg (by simp)]; rfl
  | errCmd => rw [if_neg (by simp)]; rfl
  | cfgInfo => rw [if_neg (by simp)]; rfl
  | reserved => rw [if_neg (by simp)]; rfl

/-- Only offset 0 names ID. -/
theorem portReg_eq_id {off : Nat} : portReg off = .id ↔ off = 0x000 := by
  refine ⟨fun h => ?_, fun h => by rw [h]; rfl⟩
  unfold portReg lowPortReg at h
  split_ifs at h
  assumption

end Sys2Proof.Machine
end

