-- ==== Sys2Proof/Laws/HostOps.lean ====
section
/-! SUPPORT. The answers along a run, one step at a time, and the concatenation of the words of a register. -/

namespace Sys2Proof.Machine

@[simp] theorem answers_zero (s : State) : answers 0 s = [] := rfl

theorem answers_succ {s t : State} (h : step s = .next t) (n : Nat) :
    answers (n + 1) s = answerOfStep s t ++ answers n t := by
  rw [answers, h]

/-- Completing an access leaves its answer with the port. -/
theorem completeAccess_response (a : Access) (s : State) :
    ∃ r, (s.completeAccess a).response = some r := by
  rcases completeAccess_cases a s with ⟨_, h⟩ | ⟨_, _, h⟩ | ⟨_, _, h⟩ <;> exact ⟨_, by rw [h]; rfl⟩

/-- An access that is next and not held completes in one step. -/
theorem step_access {s : State} {a : Access} {rest : List Event} (ha : s.agenda = .access a :: rest)
    (hh : (s.busyBit && a.held) = false) : step s = .next ((s.withAgenda rest).completeAccess a) := by
  unfold step
  rw [ha]
  simp only [hh]
  rfl

/-- An access that is next and held waits: the engine has its turn. -/
theorem step_held {s : State} {a : Access} {rest : List Event} (ha : s.agenda = .access a :: rest)
    (hh : (s.busyBit && a.held) = true) : step s = engineStep s := by
  unfold step
  rw [ha]
  simp only [hh, if_true]

/-- The answers when the next access is not held: its own, then those of the run after it. -/
theorem answers_access {s : State} {a : Access} {rest : List Event} {r : Response} (ha : s.agenda = .access a :: rest)
    (hh : (s.busyBit && a.held) = false) (hr : ((s.withAgenda rest).completeAccess a).response = some r) (n : Nat) :
    answers (n + 1) s = r :: answers n ((s.withAgenda rest).completeAccess a) := by
  rw [answers_succ (step_access ha hh), answerOfStep, ha]
  simp only [hh, hr]
  rfl

/-- The answers when the next access is held: those of the run after the engine's turn. -/
theorem answers_held {s t : State} {a : Access} {rest : List Event} (ha : s.agenda = .access a :: rest)
    (hh : (s.busyBit && a.held) = true) (ht : engineStep s = .next t) (n : Nat) :
    answers (n + 1) s = answers n t := by
  rw [answers_succ ((step_held ha hh).trans ht), answerOfStep, ha]
  simp only [hh, if_true, List.nil_append]

/-- The four words of a register, concatenated, are the register. -/
theorem joinWords_valWord (v : Val) : joinWords (valWord v 0) (valWord v 1) (valWord v 2) (valWord v 3) = v := by
  apply BitVec.eq_of_toNat_eq
  have h := v.isLt
  have l (w : Word) (k : Nat) (x : BitVec k) : (w ++ x).toNat = w.toNat * 2 ^ k + x.toNat := by
    rw [BitVec.toNat_append, Nat.shiftLeft_eq, Nat.mul_comm, Nat.two_pow_add_eq_or_of_lt x.isLt]
  unfold joinWords
  rw [BitVec.append_assoc, BitVec.append_assoc]
  simp only [BitVec.toNat_cast, l, valWord_toNat]
  norm_num at *
  omega

/-- A register all four words of which are replaced by those of a value holds the value. -/
theorem setValWord_all (u v : Val) :
    setValWord (setValWord (setValWord (setValWord u 0 (valWord v 0)) 1 (valWord v 1)) 2 (valWord v 2)) 3 (valWord v 3)
      = v := by
  apply BitVec.eq_of_getLsbD_eq
  intro i hi
  have word (j : Nat) (h : 32 * j ≤ i) (h' : i < 32 * j + 32) : (valWord v j).getLsbD (i - 32 * j) = v.getLsbD i := by
    rw [valWord, BitVec.getLsbD_extractLsb', show 32 * j + (i - 32 * j) = i by omega]
    simp only [show i - 32 * j < 32 by omega, decide_true, Bool.true_and]
  rw [getLsbD_setValWord _ _ _ hi, getLsbD_setValWord _ _ _ hi, getLsbD_setValWord _ _ _ hi,
    getLsbD_setValWord _ _ _ hi]
  split_ifs with h3 h2 h1 h0
  · exact word 3 h3.1 h3.2
  · exact word 2 h2.1 h2.2
  · exact word 1 h1.1 h1.2
  · exact word 0 h0.1 h0.2
  · omega

/-- A run goes on from the state its first step leaves. -/
theorem run_succ {s t : State} (h : step s = .next t) (n : Nat) :
    Host.Core.run Sys2Proof.core (n + 1) s = Host.Core.run Sys2Proof.core n t := by
  have h' : Sys2Proof.core.step s = .next t := h
  simp only [Host.Core.run, h']

end Sys2Proof.Machine
end

