-- ==== Sys2Proof/Laws/PerInstr.lean ====
section
/-! SUPPORT. Facts about every command as syntax, one lemma for each constructor of `Instr`. -/

namespace Sys2Proof.Laws.OpcodeByte

/-- The opcode of a command (30_encoding.md R109). -/
def opOf : Instr → Op
  | .nop => .nop
  | .reduce _ _ _ => .reduce
  | .muladd _ _ _ _ _ => .muladd
  | .muladdr _ _ _ _ _ => .muladdr
  | .pow _ _ _ _ => .pow
  | .inv _ _ _ => .inv
  | .rand _ _ => .rand
  | .config _ _ _ => .config
  | .configRandom _ _ => .config
  | .lookup _ _ _ _ => .lookup
  | .fill _ => .fill
  | .slide _ _ => .slide
  | .fpclr => .fpclr
  | .fpget _ => .fpget
  | .fpput _ => .fpput
  | .cmp _ _ _ => .cmp
  | .pack2 _ => .pack2

/-- Bits [31:24] of a command's word are its opcode (30_encoding.md R100, R109). -/
def Statement (i : Instr) : Prop := (encode i).extractLsb' 24 8 = (opOf i).byte

theorem nop : Statement .nop := formatN_byte _

theorem reduce (rd rs1 : Reg) (sw : Width) : Statement (.reduce rd rs1 sw) := formatR_byte ..

theorem muladd (rd rs1 rs2 rs3 : Reg) (sw : Width) : Statement (.muladd rd rs1 rs2 rs3 sw) := formatR_byte ..

theorem muladdr (rd rs1 rs2 rs3 : Reg) (sw : Width) : Statement (.muladdr rd rs1 rs2 rs3 sw) := formatR_byte ..

theorem pow (rd rs1 rs2 : Reg) (sw : Width) : Statement (.pow rd rs1 rs2 sw) := formatR_byte ..

theorem inv (rd rs1 : Reg) (sw : Width) : Statement (.inv rd rs1 sw) := formatR_byte ..

theorem rand (rd : Reg) (sw : Width) : Statement (.rand rd sw) := formatR_byte ..

theorem config (rt rb : Reg) (wsel : Option WSel) : Statement (.config rt rb wsel) := formatC_byte ..

theorem configRandom (rt : Reg) (wsel : Option WSel) : Statement (.configRandom rt wsel) := formatC_byte ..

theorem lookup (rd : Reg) (ch : Chan) (a b : Byte) : Statement (.lookup rd ch a b) := formatL_byte ..

theorem fill (b : Byte) : Statement (.fill b) := formatB_byte ..

theorem slide (a b : Byte) : Statement (.slide a b) := formatB_byte ..

theorem fpclr : Statement .fpclr := formatN_byte _

theorem fpget (rd : Reg) : Statement (.fpget rd) := formatR_byte ..

theorem fpput (rs1 : Reg) : Statement (.fpput rs1) := formatR_byte ..

theorem cmp (rd rs1 rs2 : Reg) : Statement (.cmp rd rs1 rs2) := formatR_byte ..

theorem pack2 (rd : Reg) : Statement (.pack2 rd) := formatR_byte ..

end Sys2Proof.Laws.OpcodeByte
end

