-- ==== Sys2Proof/Tests/Slice0.lean ====
section
/-! SUPPORT. Tests. Expected results are those of spec/95_test_vectors.md (the vector is named in each test) or the
words of the formats of spec/30_encoding.md written out bit by bit. After them, for each obligation with hypotheses, a
witness: concrete states and operands that meet the hypotheses of every clause. -/

namespace Sys2Proof.Tests

open Sys2Proof Sys2Proof.Machine Sys2Proof.Spec

set_option Elab.async false

/-! ## Helpers -/

/-- The reset state with these registers. -/
def withX (l : List (Nat × Val)) : State := l.foldl (fun s p => s.setX p.1 p.2) State.reset

/-- The state with this word as its busy command. -/
def holding (w : Word) (s : State) : State := { s with busy := some w }

/-- The next state, where there is one. -/
def nextOf : Host.Outcome State Fault Refusal → Option State
  | .next t => some t
  | .fault _ => none
  | .refused _ => none

/-- The state after the engine has executed this word. -/
def after (w : Word) (s : State) : Option State := nextOf (step (holding w s))

/-- X[n] after the engine has executed this word without an error. -/
def xAfter (n : Nat) (w : Word) (s : State) : Option Val :=
  (after w s).bind fun t => if t.err then none else some (t.getX n)

/-- FP[c] after the engine has executed this word without an error. -/
def fpAfter (c : Nat) (w : Word) (s : State) : Option Val :=
  (after w s).bind fun t => if t.err then none else some (t.getFp c)

/-- The error code and the recorded word after the engine has executed this word. -/
def errorAfter (w : Word) (s : State) : Option (ErrCode × Word) :=
  (after w s).map fun t => (t.errCode, t.errCmd)

/-- What the host port answers to this event. -/
def answer (e : Event) (s : State) : Option Response := (nextOf (step (s.withAgenda [e]))).bind State.response

def p61 : Val := 0x1FFFFFFFFFFFFFFF

def p89 : Val := 0x1FFFFFFFFFFFFFFFFFFFFFF

def p107 : Val := 0x7FFFFFFFFFFFFFFFFFFFFFFFFFF

def p127 : Val := 0x7FFFFFFFFFFFFFFFFFFFFFFFFFFFFFFF

/-- The configuration of VT1: width 61, tau 4, base 5. -/
def vt1 : State := State.reset.commit (configure .w61 4 [5])

/-- The configuration of VT20: width 122, tau 3, bases 5 and 7. -/
def vt20 : State := State.reset.commit (configure .w122 3 [5, 7])

/-- The configuration of VT14: width 244, tau 4, bases 2, 3, 4, 5. -/
def vt14 : State := State.reset.commit (configure .w244 4 [2, 3, 4, 5])

/-- The configuration of VR7: width 61, tau 1, base 5. -/
def vr7 : State := State.reset.commit (configure .w61 1 [5])

/-- The state with these fingerprints. -/
def withFp (a b c d : Val) (s : State) : State := s.setFps #v[a, b, c, d]

/-! ## Well-formedness: a term each check refuses -/

theorem test_wf_reduce_refuses_odd_source : Instr.wf (.reduce 0 3 .w61) = false := by decide

theorem test_wf_muladd_refuses_odd_destination : Instr.wf (.muladd 5 1 2 3 .w61) = false := by decide

/-! ## Decoding: words written from the fields of R101 to R107 -/

theorem test_decode_nop : decode 0b00000000_000000000000000000000000 = .ok .nop := by decide

theorem test_decode_reduce : decode 0b00000001_1011_0110_0000_0000_000000_10 = .ok (.reduce 11 6 .w107) := by decide

theorem test_decode_muladd :
    decode 0b00000010_0100_1001_0011_1110_000000_01 = .ok (.muladd 4 9 3 14 .w89) := by decide

theorem test_decode_muladdr :
    decode 0b00000011_1101_0010_1011_0111_000000_11 = .ok (.muladdr 13 2 11 7 .w127) := by decide

theorem test_decode_pow : decode 0b00000100_0101_1010_1100_0000_000000_00 = .ok (.pow 5 10 12 .w61) := by decide

theorem test_decode_inv : decode 0b00000101_1111_0001_0000_0000_000000_01 = .ok (.inv 15 1 .w89) := by decide

theorem test_decode_rand : decode 0b00000110_0111_0000_0000_0000_000000_11 = .ok (.rand 7 .w127) := by decide

theorem test_decode_config :
    decode 0b00010000_0011_1010_0000_1_110_00000000 = .ok (.config 3 10 (some .w244)) := by decide

theorem test_decode_configRandom :
    decode 0b00010000_0110_0000_0000_0_101_00000000 = .ok (.configRandom 6 (some .w183)) := by decide

theorem test_decode_lookup :
    decode 0b00010001_1001_10_00_11000011_01011010 = .ok (.lookup 9 2 0xC3 0x5A) := by decide

theorem test_decode_fill : decode 0b00100000_00000000_00000000_10010110 = .ok (.fill 0x96) := by decide

theorem test_decode_slide : decode 0b00100001_00000000_01000001_01000101 = .ok (.slide 0x41 0x45) := by decide

theorem test_decode_fpclr : decode 0b00110000_000000000000000000000000 = .ok .fpclr := by decide

theorem test_decode_fpget : decode 0b00110001_1010_0000_0000_0000_00000000 = .ok (.fpget 10) := by decide

theorem test_decode_fpput : decode 0b00110010_0000_1010_0000_0000_00000000 = .ok (.fpput 10) := by decide

theorem test_decode_cmp : decode 0b00110011_0001_0010_0100_0000_00000000 = .ok (.cmp 1 2 4) := by decide

theorem test_decode_pack2 : decode 0b00110100_0110_0000_0000_0000_00000000 = .ok (.pack2 6) := by decide

/-- CONFIG's reserved width code 7 is a legal encoding (R106, R111). -/
theorem test_decode_config_reserved_width :
    decode 0b00010000_0000_0001_0000_1_111_00000000 = .ok (.config 0 1 none) := by decide

/-- VA7, VA8, VA11, VA31, VA33, VR6, VT15: a field that must be 0, or even. -/
theorem test_decode_illegal_fields :
    decode 0x01030000 = .error .illegalField ∧ decode 0x01021000 = .error .illegalField ∧
    decode 0x02512300 = .error .illegalField ∧ decode 0x06710001 = .error .illegalField ∧
    decode 0x00000001 = .error .illegalField ∧ decode 0x20000101 = .error .illegalField ∧
    decode 0x21014145 = .error .illegalField ∧ decode 0x10010000 = .error .illegalField := by decide

/-- VA34. -/
theorem test_decode_reserved_opcodes :
    decode 0x07000000 = .error .illegalOpcode ∧ decode 0x0F000000 = .error .illegalOpcode ∧
    decode 0x12000000 = .error .illegalOpcode ∧ decode 0x22000000 = .error .illegalOpcode ∧
    decode 0x35000000 = .error .illegalOpcode ∧ decode 0xFF000000 = .error .illegalOpcode := by decide

/-- R117: assembler text of three commands of the programs. -/
theorem test_assembler :
    assemblerText (.muladd 8 1 2 3 .w127) = some "MULADD.127 X8, X1, X2, X3" ∧
    assemblerText (.configRandom 0 (some .w183)) = some "CONFIG.183 X0, RANDOM" ∧
    assemblerText (.lookup 3 0 0x41 0x45) = some "LOOKUP X3, C0, 65, 69" := by decide +kernel

/-! ## The arithmetic unit -/

/-- VA32: NOP. -/
theorem test_nop_records_completion :
    (after 0x00000000 State.reset) = some { State.reset with done := true } := by decide +kernel

/-- VA3b, VA3d, VA5, VA9: values of REDUCE. -/
theorem test_reduce_values :
    xAfter 0 0x01020001 (withX [(2, 0xFFFFFFFFFC0000000000000000000000), (3, 0x3FFFFFFFFFFFF)])
      = some 0x1FFFFFFFFFFFFFFFFFFFFFE ∧
    xAfter 0 0x01020003 (withX [(2, 0), (3, 0x3FFFFFFFFFFFFFFFFFFFFFFFFFFFFFFF)])
      = some 0x7FFFFFFFFFFFFFFFFFFFFFFFFFFFFFFE ∧
    xAfter 0 0x01020003 (withX [(2, 0), (3, 1)]) = some 2 ∧
    xAfter 2 0x01220000 (withX [(2, 12345)]) = some 12345 := by decide +kernel

/-- VA1, VA4 (61, 127), VA6, VA7: the corrected fold and the errors of REDUCE. -/
theorem test_reduce_corners :
    xAfter 0 0x01020000 (withX [(2, p61)]) = some 0 ∧
    errorAfter 0x01020000 (withX [(2, 0x3FFFFFFFFFFFFFFC000000000000001)]) = some (.operandRange, 0x01020000) ∧
    errorAfter 0x01020003 (withX [(2, 1), (3, 0x3FFFFFFFFFFFFFFFFFFFFFFFFFFFFFFF)])
      = some (.operandRange, 0x01020003) ∧
    errorAfter 0x01020000 (withX [(3, 1)]) = some (.operandRange, 0x01020000) ∧
    errorAfter 0x01030000 State.reset = some (.illegalField, 0x01030000) := by decide +kernel

/-- VA10b, VA10d: the wide product. -/
theorem test_muladd_values :
    xAfter 4 0x02411101 (withX [(1, p89 - 1)]) = some 0xFFFFFFFFFA0000000000000000000002 ∧
    xAfter 5 0x02411101 (withX [(1, p89 - 1)]) = some 0x3FFFFFFFFFFFF ∧
    xAfter 4 0x02411103 (withX [(1, p127 - 1)]) = some 0x80000000000000000000000000000002 ∧
    xAfter 5 0x02411103 (withX [(1, p127 - 1)]) = some 0x3FFFFFFFFFFFFFFFFFFFFFFFFFFFFFFE := by
  decide +kernel

/-- VA11, VA12: the errors of MULADD; the error record and nothing else. -/
theorem test_muladd_errors :
    errorAfter 0x02512300 State.reset = some (.illegalField, 0x02512300) ∧
    after 0x02412300 (withX [(1, p61)]) = some { withX [(1, p61)] with
      err := true, errCode := .operandRange, errCmd := 0x02412300 } := by decide +kernel

/-- VA14, VA15, VA16: MULADDR. -/
theorem test_muladdr_values :
    xAfter 0 0x03012300 (withX [(1, 5), (2, 10178), (3, 69)]) = some 50959 ∧
    xAfter 0 0x03012303 (withX [(1, 0x40000000000000000000000000000000), (2, 2)]) = some 1 ∧
    xAfter 1 0x03112101 (withX [(1, 7), (2, 9)]) = some 70 := by decide +kernel

/-- VA13: p - 1 in all three operands, per width. -/
theorem test_muladdr_corner :
    xAfter 0 0x03011100 (withX [(1, p61 - 1)]) = some 0 ∧ xAfter 0 0x03011101 (withX [(1, p89 - 1)]) = some 0 ∧
    xAfter 0 0x03011102 (withX [(1, p107 - 1)]) = some 0 ∧ xAfter 0 0x03011103 (withX [(1, p127 - 1)]) = some 0 := by
  decide +kernel

/-- VA17, VA18, VA19, VA20, VA21: POW. -/
theorem test_pow_values :
    xAfter 0 0x04012000 (withX [(1, 5), (2, 4)]) = some 625 ∧ xAfter 0 0x04012000 (withX []) = some 1 ∧
    xAfter 0 0x04012000 (withX [(2, 5)]) = some 0 ∧ xAfter 1 0x04111000 (withX [(1, 3)]) = some 27 ∧
    errorAfter 0x04012000 (withX [(1, p61)]) = some (.operandRange, 0x04012000) := by decide +kernel

/-- VA22 (107), VA23: large exponents. -/
theorem test_pow_large_exponents :
    xAfter 0 0x04012002 (withX [(1, 3), (2, p107 - 1)]) = some 1 ∧
    xAfter 0 0x04012000 (withX [(1, 2), (2, BitVec.allOnes 128)]) = some 0x800 ∧
    xAfter 0 0x04012001 (withX [(1, 2), (2, BitVec.allOnes 128)]) = some 0x4000000000 ∧
    xAfter 0 0x04012003 (withX [(1, 2), (2, BitVec.allOnes 128)]) = some 0x8 := by decide +kernel

/-- VA24: the inverse of 5, per width. -/
theorem test_inv_values :
    xAfter 0 0x05010000 (withX [(1, 5)]) = some 0x1999999999999999 ∧
    xAfter 0 0x05010001 (withX [(1, 5)]) = some 0x19999999999999999999999 ∧
    xAfter 0 0x05010002 (withX [(1, 5)]) = some 0x333333333333333333333333333 ∧
    xAfter 0 0x05010003 (withX [(1, 5)]) = some 0x33333333333333333333333333333333 := by decide +kernel

/-- VA26, VA28, VA29: the corners of INV. -/
theorem test_inv_corners :
    xAfter 0 0x05010000 (withX []) = some 0 ∧ xAfter 0 0x05010001 (withX [(1, p89 - 1)]) = some (p89 - 1) ∧
    errorAfter 0x05010003 (withX [(1, p127)]) = some (.operandRange, 0x05010003) := by decide +kernel

/-- VA30: the third offered word is accepted, and all three are taken. -/
theorem test_rand_rejects :
    (after 0x06700001 { State.reset with rng := [0, p89, p89 - 1] }).map (fun t => (t.getX 7, t.rng))
      = some (0x1FFFFFFFFFFFFFFFFFFFFFE, []) := by decide +kernel

/-- VA31. -/
theorem test_rand_illegal_field :
    errorAfter 0x06710001 State.reset = some (.illegalField, 0x06710001) := by decide +kernel

/-! ## The table controller -/

/-- VT1, VT14, VT8: what a CONFIG commits. -/
theorem test_config_commits :
    (after 0x10010800 (withX [(0, 4), (1, 5)])).map (fun t => t.cfg) = some vt1.cfg ∧
    (after 0x100C0E00 (withX [(0, 4), (12, 2), (13, 3), (14, 4), (15, 5)])).map (fun t => t.cfg.maxExp)
      = some #v[16, 81, 256, 625] ∧
    (after 0x10010800 (withX [(0, 0xFFFFFFFFFFFFFFFF), (1, 5)])).map (fun t => (t.maxExp 0, t.crate))
      = some (0x71AFD498D, 0x4020000000000000) := by decide +kernel

/-- VT6, VT7, VT9, VT10, VT12, VT13: the errors of CONFIG, the old configuration kept. -/
theorem test_config_errors :
    errorAfter 0x10010800 (withX [(1, 5)]) = some (.badWindow, 0x10010800) ∧
    errorAfter 0x10010800 (withX [(0, 0x10000000000000000), (1, 5)]) = some (.badWindow, 0x10010800) ∧
    errorAfter 0x10010800 (withX [(0, 4)]) = some (.badBase, 0x10010800) ∧
    errorAfter 0x10010800 (withX [(0, 4), (1, p61)]) = some (.badBase, 0x10010800) ∧
    errorAfter 0x10010F00 (withX [(0, 4), (1, 5)]) = some (.badWidth, 0x10010F00) ∧
    errorAfter 0x100D0E00 (withX [(0, 4), (13, 2), (14, 3), (15, 4)]) = some (.illegalField, 0x100D0E00) := by
  decide +kernel

/-- VT16: three draws, two of them equal. -/
theorem test_config_random_draws :
    (after 0x10000500 { withX [(0, 3)] with rng := [11, 13, 11] }).map
        (fun t => (t.cfg.base, t.cfg.maxExp, t.crate, t.cfgInfoWord))
      = some (#v[11, 13, 11, 0], #v[1331, 2197, 1331, 0], 0x34B0000000000000, 0x00533DB7) := by decide +kernel

/-- VT15 and VT6 with E = 0. -/
theorem test_config_random_errors :
    errorAfter 0x10010000 (withX [(0, 4)]) = some (.illegalField, 0x10010000) ∧
    errorAfter 0x10000500 State.reset = some (.badWindow, 0x10000500) := by decide +kernel

/-- VT2, VT3, VT20: table entries through LOOKUP. -/
theorem test_lookup_values :
    xAfter 3 0x11304145 vt1 = some 0x1FFFFFFFFFFF6193 ∧ xAfter 3 0x1130FF00 vt1 = some 0x1FFFFFFFFFFD9170 ∧
    xAfter 3 0x113000FF vt1 = some 0xFF ∧ xAfter 3 0x11346164 vt20 = some 0x1FFFFFFFFFFF7E6C := by
  decide +kernel

/-- VT4, VT5: the errors of LOOKUP. -/
theorem test_lookup_errors :
    errorAfter 0x11344145 vt1 = some (.illegalField, 0x11344145) ∧
    errorAfter 0x11300102 State.reset = some (.notConfigured, 0x11300102) := by decide +kernel

/-- VT19: CRATE. -/
theorem test_crate_values :
    vt1.crate = 0x3C38000000000000 ∧ vt20.crate = 0x3870000000000000 ∧ vr7.crate = 0 ∧
    vt14.crate = 0x3114400000000000 ∧
    (State.reset.commit (configure .w89 1000 [2])).crate = 0x3AFF380000000000 ∧
    (State.reset.commit (configure .w107 1000 [2])).crate = 0x39DF380000000000 ∧
    (State.reset.commit (configure .w244 (2 ^ 64 - 1) [2, 2, 2, 2])).crate = 0x40B0000000000000 ∧
    (State.reset.commit (configure .w127 (2 ^ 64 - 1) [2])).crate = 0x3C00000000000000 := by decide +kernel

/-! ## The roll unit -/

/-- VR1 (third and fourth byte), VR13 (second channel). -/
theorem test_fill_values :
    fpAfter 0 0x20000043 (withFp 391 0 0 0 vt1) = some 2022 ∧
    fpAfter 0 0x20000044 (withFp 2022 0 0 0 vt1) = some 10178 ∧
    fpAfter 1 0x20000063 (withFp 583 777 9 9 vt20) = some 5538 ∧
    fpAfter 2 0x20000063 (withFp 583 777 9 9 vt20) = some 9 := by decide +kernel

/-- VR4, VR5, VR6, VR14: the errors of FILL. -/
theorem test_fill_errors :
    errorAfter 0x20000001 (withFp p61 0 0 0 vt1) = some (.operandRange, 0x20000001) ∧
    errorAfter 0x20000001 State.reset = some (.notConfigured, 0x20000001) ∧
    errorAfter 0x20000101 vt1 = some (.illegalField, 0x20000101) ∧
    (after 0x20000001 (withFp 3045 p61 0 0 vt20)).map (fun t => (t.errCode, t.getFp 0)) = some (.operandRange, 3045) := by
  decide +kernel

/-- VR2, VR3, VR8, VR13: SLIDE. -/
theorem test_slide_values :
    fpAfter 0 0x21004145 (withFp 10178 0 0 0 vt1) = some 10334 ∧
    fpAfter 0 0x21000007 (withFp 10334 0 0 0 vt1) = some 51677 ∧
    fpAfter 0 0x21000307 (withFp 10 0 0 0 vr7) = some 42 ∧
    fpAfter 1 0x21006164 (withFp 3014 5538 0 0 vt20) = some 5595 := by decide +kernel

/-- VR11, VR12: SLIDE in the wide fields. -/
theorem test_slide_wide :
    fpAfter 0 0x2100FF00 (withFp 0x1000000000000000000017E 0 0 0
      (State.reset.commit (configure .w89 2 [2 ^ 88]))) = some 0x1000000000000000000007F ∧
    fpAfter 0 0x2100FF00 (withFp 0x40000000000000000000000017E 0 0 0
      (State.reset.commit (configure .w107 2 [2 ^ 106]))) = some 0x40000000000000000000000007F := by
  decide +kernel

/-! ## The combiner -/

/-- VC11. -/
theorem test_fpclr : (after 0x30000000 (withFp 1 2 3 4 State.reset)).map (fun t => t.fp) = some #v[0, 0, 0, 0] := by
  decide +kernel

/-- VC1. -/
theorem test_fpget :
    (after 0x31400000 (withFp 3045 5595 9 9 vt20)).map (fun t => (t.getX 4, t.getX 5, t.getX 6))
      = some (3045, 5595, 0) := by decide +kernel

/-- VC12: tuples that end at X15 and past it. -/
theorem test_tuple_bounds :
    (after 0x320C0000 { vt14 with x := (withX [(12, 2), (13, 3), (14, 4), (15, 5)]).x }).map (fun t => t.fp)
      = some #v[2, 3, 4, 5] ∧
    errorAfter 0x320D0000 vt14 = some (.illegalField, 0x320D0000) ∧
    errorAfter 0x31D00000 vt14 = some (.illegalField, 0x31D00000) := by decide +kernel

/-- VC13, VC14: FPPUT checks no range. -/
theorem test_fpput :
    fpAfter 0 0x32090000 { vt1 with x := (withX [(9, 10178)]).x } = some 10178 ∧
    fpAfter 0 0x32090000 { vt1 with x := (withX [(9, p61 + 5)]).x } = some 0x2000000000000004 := by decide +kernel

/-- VC3, VC4: CMP. -/
theorem test_cmp_values :
    xAfter 12 0x33C4A000 { vt20 with x := (withX [(4, 3045), (5, 5595), (10, 3045), (11, 5596)]).x } = some 1 ∧
    xAfter 12 0x33CA4000 { vt20 with x := (withX [(4, 3045), (5, 5595), (10, 3045), (11, 5596)]).x } = some 2 ∧
    xAfter 12 0x33C44000 { vt20 with x := (withX [(4, 3045), (5, 5595)]).x } = some 0 ∧
    xAfter 12 0x33C4A000 { vt20 with x := (withX [(4, 3045), (5, 5595), (10, 3044), (11, 9999)]).x } = some 2 := by
  decide +kernel

/-- VC5, VC6: the errors of CMP. -/
theorem test_cmp_errors :
    errorAfter 0x33C4A000 { vt20 with x := (withX [(4, 3045), (5, 5595), (10, 3045), (11, p61)]).x }
      = some (.operandRange, 0x33C4A000) ∧
    errorAfter 0x33CF4000 vt20 = some (.illegalField, 0x33CF4000) := by decide +kernel

/-- VC2, VC7: PACK2. -/
theorem test_pack2_values :
    xAfter 8 0x34800000 (withFp 3045 5595 9 9 vt20) = some 0x17CA0000000000015DB ∧
    xAfter 8 0x34800000 (withFp (p61 - 1) (p61 - 1) 0 0 vt20) = some 0x3FFFFFFFFFFFFFFDFFFFFFFFFFFFFFE ∧
    xAfter 8 0x34800000 (withFp 1 0 0 0 vt20) = some 0x2000000000000000 := by decide +kernel

/-- VC8, VC9, VC10: the errors of PACK2, in their order. -/
theorem test_pack2_errors :
    errorAfter 0x34800000 (withFp p61 0 0 0 vt20) = some (.operandRange, 0x34800000) ∧
    errorAfter 0x34800000 (withFp p61 0 0 0 vt1) = some (.modeMismatch, 0x34800000) ∧
    errorAfter 0x34800000 State.reset = some (.notConfigured, 0x34800000) := by decide +kernel

/-! ## Errors, status and the host port -/

/-- VE1 to VE4: the order of the checks. -/
theorem test_check_order :
    errorAfter 0x20000101 State.reset = some (.illegalField, 0x20000101) ∧
    errorAfter 0x10010F00 State.reset = some (.badWidth, 0x10010F00) ∧
    errorAfter 0x100D0E00 State.reset = some (.illegalField, 0x100D0E00) ∧
    errorAfter 0x10010800 State.reset = some (.badWindow, 0x10010800) := by decide +kernel

/-- The state of VE6 after the LOOKUP. -/
def ve6 : State := { State.reset with err := true, errCode := .notConfigured, errCmd := 0x11300102 }

/-- VE6: STATUS after the error; a command is discarded while ERR = 1. -/
theorem test_error_state :
    after 0x11300102 State.reset = some ve6 ∧ ve6.statusWord = 0x00000404 ∧
    nextOf (step (ve6.withAgenda [command .nop])) = some { ve6 with response := some ⟨none, false⟩ } := by
  decide +kernel

/-- VE7: CLRERR keeps ERRCMD. -/
theorem test_clear_error :
    (nextOf (step (ve6.withAgenda [clrerr]))).map (fun t => (t.statusWord, t.errCmd)) = some (0, 0x11300102) := by
  decide +kernel

/-- VE8, VE9: the interrupt level. -/
theorem test_irq :
    ({ State.reset with done := true, doneIe := true } : State).irq = true ∧
    (nextOf (step ({ State.reset with done := true, doneIe := true, agenda := [clrdone] }))).map State.irq
      = some false ∧
    (nextOf (step ({ ve6 with errIe := true, agenda := [memWrite 0x004 0] }))).map (fun t => (t.irq, t.err))
      = some (false, true) := by decide +kernel

/-- VH1, VH2: the ID register and a bus error. -/
theorem test_id_and_bus_error :
    answer (memRead 0x000) State.reset = some ⟨some 0x4B524D07, false⟩ ∧
    answer (memRead 0x002) State.reset = some ⟨some 0, true⟩ ∧
    answer (.access ⟨false, 0x000, 0, 0⟩) State.reset = some ⟨some 0, true⟩ := by decide +kernel

/-- VH5: the words of a value register, low word at the low offset. -/
theorem test_register_window :
    (nextOf (step (withX [(1, 0x0123456789ABCDEFFEDCBA9876543210)] |>.withAgenda [memRead 0x118]))).map State.response
      = some (some ⟨some 0x89ABCDEF, false⟩) ∧
    (nextOf (step (State.reset.withAgenda [memWrite 0x11C 0x01234567]))).map (fun t => t.getX 1)
      = some 0x01234567000000000000000000000000 := by decide +kernel

/-- VH5: WRX X1 writes its words from the lowest, and RDX X1 returns the value; RDFP of a register likewise. -/
theorem test_wrx_rdx :
    wrx 1 0x0123456789ABCDEFFEDCBA9876543210
      = [memWrite 0x110 0x76543210, memWrite 0x114 0xFEDCBA98, memWrite 0x118 0x89ABCDEF,
         memWrite 0x11C 0x01234567] ∧
    rdxResult 1 (withX [(1, 0x0123456789ABCDEFFEDCBA9876543210)]) = some 0x0123456789ABCDEFFEDCBA9876543210 ∧
    rdfpResult 2 (withFp 0 0 0x0123456789ABCDEFFEDCBA9876543210 0 State.reset)
      = some 0x0123456789ABCDEFFEDCBA9876543210 := by decide +kernel

/-- A read of FP0 is held until the busy FPCLR ends (20_memory.md R70), and RDSTATUS is not held. -/
theorem test_rdfp_busy :
    rdfpResult 0 (holding 0x30000000 (withFp 7 0 0 0 State.reset)) = some 0 ∧
    rdstatusResult (holding 0x30000000 State.reset) = some 1 := by decide +kernel

/-- VH6: introspection after VT1. -/
theorem test_introspection :
    answer (memRead 0x014) vt1 = some ⟨some 0x00013D3D, false⟩ ∧
    answer (memRead 0x018) vt1 = some ⟨some 4, false⟩ ∧ answer (memRead 0x024) vt1 = some ⟨some 0x3C380000, false⟩ ∧
    answer (memRead 0x300) vt1 = some ⟨some 5, false⟩ ∧ answer (memRead 0x340) vt1 = some ⟨some 625, false⟩ ∧
    answer (memRead 0x310) vt1 = some ⟨some 0, false⟩ ∧ vt14.cfgInfoWord = 0x00643DF4 := by decide +kernel

/-- VH8: a soft reset. -/
theorem test_soft_reset :
    nextOf (step ({ vt1 with x := (withX [(0, 4)]).x, errIe := true, agenda := [memWrite 0x004 7] }))
      = some { State.reset with response := some ⟨none, false⟩ } := by decide +kernel

/-- VH10: while a command is busy STATUS is read at once and X0 is not. -/
theorem test_busy_reads :
    (nextOf (step { holding 0 State.reset with agenda := [memRead 0x008] })).map State.response
      = some (some ⟨some 1, false⟩) ∧
    (nextOf (step { holding 0 State.reset with agenda := [memRead 0x100] })).map
        (fun t => (t.busyBit, t.response, t.agenda)) = some (false, none, [memRead 0x100]) := by decide +kernel

/-! # Witnesses: the hypotheses of each obligation, met -/

/-! ## States that meet the invariant -/

theorem inv_commit {ws : WSel} {tau : Nat} {bases : List Nat} (h1 : 1 ≤ tau) (h2 : tau < 2 ^ 64)
    (hb : ∀ c < ws.channels, 1 ≤ bases.getD c 0 ∧ bases.getD c 0 ≤ ws.modulus - 1) :
    Inv (State.reset.commit (configure ws tau bases)) :=
  ⟨.inl (commit_configure_configured h1 h2 hb),
    by simp [ErrorRecordInv, State.commit, State.reset], fun h => absurd rfl h⟩

theorem inv_vt1 : Inv vt1 := inv_commit (by decide) (by decide) (by decide)

theorem inv_vt20 : Inv vt20 := inv_commit (by decide) (by decide) (by decide)

theorem inv_vr7 : Inv vr7 := inv_commit (by decide) (by decide) (by decide)

theorem inv_reset : Inv State.reset :=
  ⟨.inr rfl, by simp [ErrorRecordInv, State.reset], fun h => absurd rfl h⟩

/-- An event list whose only access is a CTRL write with bit 0 = 1 (a soft reset). -/
def softReset : Event := memWrite 0x004 1

/-- The state after CLRERR of VE6, and after a completion, as results of steps. -/
def ve6Clear : State := ve6.withAgenda [clrerr]

/-- The premise ResetFrom s t of several statements. -/
theorem resetFrom_reset : ResetFrom State.reset State.reset := by unfold ResetFrom; decide +kernel

/-! ## Encoding -/

theorem witness_DecodeOfEncodeIsTheCommand :
    Instr.wf (.reduce 15 14 .w127) = true ∧ Instr.wf (.muladd 14 15 15 15 .w127) = true ∧
    Instr.wf (.config 15 15 none) = true ∧ Instr.wf (.lookup 15 3 0xFF 0xFF) = true := by decide

theorem witness_EncodeOfDecodeIsTheWord :
    decode 0x11FCFFFF = .ok (.lookup 15 3 0xFF 0xFF) ∧ decode 0x02EFFF03 = .ok (.muladd 14 15 15 15 .w127) ∧
    decode 0x10FF0F00 = .ok (.config 15 15 none) := by decide

theorem witness_LegalWordsAreTheRowsOfTheTable :
    opcode 0x01030000 ∈ assigned ∧ (∀ r ∈ rows, (0x01030000 : Word) &&& r.2.2.1 ≠ r.2.2.2) ∧
    (holding 0x01030000 State.reset).busy = some 0x01030000 ∧
    opcode 0x10010F00 = 0x10 ∧ bits 0x10010F00 8 3 = 7 ∧
    (∃ r ∈ rows, (0x10010F00 : Word) &&& r.2.2.1 = r.2.2.2) := by decide +kernel

theorem witness_ReservedOpcodesEndInIllegalOpcode :
    opcode 0x07000000 = 0x07 ∧ opcode 0x0FFFFFFF = 0x0F ∧ opcode 0x12000000 = 0x12 ∧ opcode 0x1FFFFFFF = 0x1F ∧
    opcode 0x22000000 = 0x22 ∧ opcode 0x2FFFFFFF = 0x2F ∧ opcode 0x35000000 = 0x35 ∧ opcode 0xFFFFFFFF = 0xFF ∧
    (holding 0x35000000 State.reset).busy = some 0x35000000 := by decide +kernel

/-- A word with this opcode that misses the fixed bits of its row, and a state that holds it: the hypotheses of
RejectsBadFields, met for each row, and so those of every statement that uses it. -/
theorem witness_RejectsBadFields :
    ∀ r ∈ ([(0x00, 0xFFFFFFFF, 0x00000000, 0x00000001), (0x01, 0xFF01FFFC, 0x01000000, 0x01010000),
        (0x02, 0xFF1000FC, 0x02000000, 0x02100000), (0x03, 0xFF0000FC, 0x03000000, 0x03000004),
        (0x04, 0xFF000FFC, 0x04000000, 0x04000100), (0x05, 0xFF00FFFC, 0x05000000, 0x05001000),
        (0x06, 0xFF0FFFFC, 0x06000000, 0x06010000), (0x11, 0xFF030000, 0x11000000, 0x11010000),
        (0x20, 0xFFFFFF00, 0x20000000, 0x20000100), (0x21, 0xFFFF0000, 0x21000000, 0x21010000),
        (0x30, 0xFFFFFFFF, 0x30000000, 0x30000001), (0x31, 0xFF0FFFFF, 0x31000000, 0x31010000),
        (0x32, 0xFFF0FFFF, 0x32000000, 0x32100000), (0x33, 0xFF000FFF, 0x33000000, 0x33000100),
        (0x34, 0xFF0FFFFF, 0x34000000, 0x34010000)] : List (Nat × Word × Word × Word)),
      opcode r.2.2.2 = r.1 ∧ r.2.2.2 &&& r.2.1 ≠ r.2.2.1 ∧ (holding r.2.2.2 State.reset).busy = some r.2.2.2 := by
  decide +kernel

/-! ## The step -/

theorem witness_StepRunsTheDecodedCommand :
    (holding 0x30000000 State.reset).busy = some 0x30000000 ∧ decode 0x30000000 = .ok .fpclr ∧
    (holding 0x30000000 State.reset).agenda = [] ∧
    ((holding 0x30000000 State.reset).withAgenda [.complete]).agenda = .complete :: [] ∧
    (Aligned ⟨false, 0x100, 2, 0⟩ ∧ heldOffset 0x100 = true) ∧ (Aligned ⟨true, 0x37C, 2, 0⟩ ∧ heldOffset 0x37C = true) ∧
    (holding 0x01030000 State.reset).busy = some 0x01030000 ∧ decode 0x01030000 = .error .illegalField := by
  unfold Aligned; decide +kernel

/-- For each check of R232 a word and a state in which it is the first to fail; and one that passes all. -/
theorem witness_FirstFailingCheckGivesTheCode :
    checkFails 1 0x07000000 State.reset ∧
    (checkFails 2 0x20000101 State.reset ∧ ¬ checkFails 1 0x20000101 State.reset) ∧
    (checkFails 3 0x10010F00 State.reset ∧ ∀ m < 3, ¬ checkFails m 0x10010F00 State.reset) ∧
    (checkFails 4 0x20000001 State.reset ∧ ∀ m < 4, ¬ checkFails m 0x20000001 State.reset) ∧
    (checkFails 5 0x100D0E00 State.reset ∧ ∀ m < 5, ¬ checkFails m 0x100D0E00 State.reset) ∧
    (checkFails 6 0x34800000 vt1 ∧ ∀ m < 6, ¬ checkFails m 0x34800000 vt1) ∧
    (checkFails 7 0x10010800 State.reset ∧ ∀ m < 7, ¬ checkFails m 0x10010800 State.reset) ∧
    (checkFails 8 0x10010800 (withX [(0, 4)]) ∧ ∀ m < 8, ¬ checkFails m 0x10010800 (withX [(0, 4)])) ∧
    (checkFails 9 0x05010003 (withX [(1, p127)]) ∧ ∀ m < 9, ¬ checkFails m 0x05010003 (withX [(1, p127)])) ∧
    (∀ m < 10, ¬ checkFails m 0x05010003 (withX [(1, p127 - 1)])) := by
  refine ⟨?_, ⟨?_, ?_⟩, ⟨?_, fun m hm => ?_⟩, ⟨?_, fun m hm => ?_⟩, ⟨?_, fun m hm => ?_⟩, ⟨?_, fun m hm => ?_⟩,
    ⟨?_, fun m hm => ?_⟩, ⟨?_, fun m hm => ?_⟩, ⟨?_, fun m hm => ?_⟩, fun m hm => ?_⟩ <;>
    (try interval_cases m) <;> simp only [checkFails, FpOutOfRange, not_false_eq_true] <;> decide +kernel

theorem witness_CommandsRaiseExactlyTheErrorsOfTheirRow :
    ∃ t, opcode 0x33CF4000 = 0x33 ∧ (holding 0x33CF4000 vt20).busy = some 0x33CF4000 ∧
      (holding 0x33CF4000 vt20).err = false ∧ engineStep (holding 0x33CF4000 vt20) = .next t ∧ t.err = true ∧
      t.errCode = .illegalField ∧ ErrCode.illegalField ∈ errorsOf 0x33 := by
  refine ⟨_, ?_, rfl, rfl, rfl, ?_, ?_, ?_⟩ <;> decide +kernel

/-- A CMD write ahead of a busy engine, of one in the error state, and of an idle one. -/
theorem witness_CmdWriteOffersTheCommand :
    ((holding 0 State.reset).busy ≠ none) ∧ (ve6.busy = none ∧ ve6.err = true) ∧
    (State.reset.busy = none ∧ State.reset.err = false) ∧
    (ve6.withAgenda [memWrite 0x00C 0]).agenda = memWrite 0x00C 0 :: [] ∧ decode 0 = .ok .nop := by decide +kernel

theorem witness_ErrIsClearedOnlyByTheHostOrReset :
    (ve6Clear.agenda = memWrite 0x008 4 :: [] ∧ (4 : Word).getLsbD 2 = true) ∧
    (IsReset .resetLow ∧ IsReset softReset) ∧
    (∃ t, step ve6Clear = .next t ∧ ve6Clear.err = true ∧ t.err = false) := by
  refine ⟨by decide, ⟨trivial, ?_⟩, ⟨_, rfl, ?_, ?_⟩⟩
  · simp only [IsReset, softReset, memWrite, Aligned]; decide
  · decide +kernel
  · decide +kernel

theorem witness_DoneIsSetOnlyByCompletion :
    (∃ t, step (holding 0 State.reset) = .next t ∧ (holding 0 State.reset).done = false ∧ t.done = true) ∧
    (∃ t, step { State.reset with done := true, agenda := [clrdone] } = .next t ∧ t.done = false) ∧
    (∃ t, exec .nop State.reset = .next t ∧ State.reset.err = false ∧ t.err = false) ∧
    (∃ t, exec (.fill 1) State.reset = .next t ∧ State.reset.err = false ∧ t.err = true) := by
  refine ⟨⟨_, rfl, ?_, ?_⟩, ⟨_, rfl, ?_⟩, ⟨_, rfl, ?_, ?_⟩, ⟨_, rfl, ?_, ?_⟩⟩ <;> decide +kernel

/-! ## The host port -/

theorem witness_MisalignedAccessesGetABusError :
    (State.reset.withAgenda [.access ⟨true, 0x000, 1, 0⟩]).agenda = .access ⟨true, 0x000, 1, 0⟩ :: [] ∧
    (1 : BitVec 2) ≠ 2 ∧ (0x3FE : BitVec 10).toNat % 4 ≠ 0 := by decide

theorem witness_ReservedOffsetsReadZeroAndIgnoreWrites :
    ∀ off ∈ [0x028, 0x0FC, 0x240, 0x2FC, 0x380, 0x3FC],
      Aligned ⟨false, BitVec.ofNat 10 off, 2, 0⟩ ∧ reservedOffset (BitVec.ofNat 10 off).toNat = true := by
  unfold Aligned; decide

theorem witness_WritesToReadOnlyRegistersAreIgnored :
    (∀ off ∈ [0x000, 0x010, 0x024, 0x300, 0x37C],
      Aligned ⟨true, BitVec.ofNat 10 off, 2, 5⟩ ∧ readOnlyOffset (BitVec.ofNat 10 off).toNat = true) ∧
    State.reset.busy = none ∧ (holding 0 State.reset).busy ≠ none := by
  unfold Aligned; decide +kernel

theorem witness_ReadsHaveNoSideEffect :
    (vt1.withAgenda [memRead 0x020, memRead 0x020]).agenda
      = .access ⟨false, 0x020, 2, 0⟩ :: .access ⟨false, 0x020, 2, 0⟩ :: [] ∧ vt1.busy = none := by decide +kernel

theorem witness_WritesAreIdempotent :
    (vt1.withAgenda [memWrite 0x23C 7, memWrite 0x23C 7]).agenda
      = .access ⟨true, 0x23C, 2, 7⟩ :: .access ⟨true, 0x23C, 2, 7⟩ :: [] ∧ vt1.busy = none ∧
    ¬ (Aligned ⟨true, 0x23C, 2, 7⟩ ∧ (0x23C : BitVec 10).toNat = 0x00C) := by
  unfold Aligned; decide +kernel

theorem witness_HeldAccessesWaitForTheBusyCommand :
    (∀ off ∈ [0x00C, 0x010, 0x024, 0x100, 0x23C, 0x300, 0x37C],
      Aligned ⟨true, BitVec.ofNat 10 off, 2, 5⟩ ∧ heldOffset (BitVec.ofNat 10 off).toNat = true) ∧
    (∀ off ∈ [0x000, 0x004, 0x008, 0x028, 0x0FC, 0x240, 0x2FC, 0x380, 0x3FC],
      ¬ (Aligned ⟨true, BitVec.ofNat 10 off, 2, 0⟩ ∧ heldOffset (BitVec.ofNat 10 off).toNat = true)) ∧
    ¬ (Aligned ⟨true, 0x101, 2, 0⟩ ∧ heldOffset 0x101 = true) ∧
    (holding 0 State.reset).busy = some 0 := by
  unfold Aligned; decide +kernel

theorem witness_StatusReadShowsBothOrders :
    State.reset.busy = none ∧ State.reset.err = false ∧
    (State.reset.withAgenda [memWrite 0x00C 0, memRead 0x008]).agenda = memWrite 0x00C 0 :: memRead 0x008 :: [] ∧
    (State.reset.withAgenda [memWrite 0x00C 0, .complete, memRead 0x008]).agenda
      = memWrite 0x00C 0 :: .complete :: memRead 0x008 :: [] := by decide +kernel

theorem witness_ResetAbortsTheBusyCommand :
    (IsReset .resetLow ∧ IsReset softReset) ∧
    (∀ e ∈ [.resetLow, softReset],
      ((holding 0 vt1).withAgenda [e, memWrite 0x00C 0]).agenda = e :: memWrite 0x00C 0 :: [] ∧
      ((holding 0 vt1).withAgenda [e, memRead 0x000]).agenda = e :: .access ⟨false, 0x000, 2, 0⟩ :: [] ∧
      ((holding 0 vt1).withAgenda [e, .complete]).agenda = e :: .complete :: [] ∧
      ((holding 0 vt1).withAgenda [.complete, e]).agenda = .complete :: e :: []) ∧
    (∃ t, step ((holding 0 vt1).withAgenda [.complete, .resetLow]) = .next t) ∧
    (∀ a ∈ [(⟨false, 0x000, 2, 0⟩ : Access), ⟨false, 0x3FC, 2, 0⟩, ⟨true, 0x008, 2, 12⟩], Aligned a) ∧
    ¬ Aligned ⟨false, 0x101, 2, 0⟩ ∧ ¬ Aligned ⟨true, 0x100, 1, 0⟩ ∧ (1 : Word).getLsbD 0 = true :=
  ⟨⟨trivial, by unfold IsReset softReset Aligned memWrite; decide⟩, by decide +kernel, ⟨_, rfl⟩,
    by unfold Aligned; decide, by unfold Aligned; decide, by unfold Aligned; decide, by decide⟩

/-- Every read of ReadsAs is met by a state that has it as its next event. -/
theorem witness_ReadsAs :
    (State.reset.withAgenda [memRead 0x000]).agenda = memRead 0x000 :: [] ∧
    (State.reset.withAgenda [memRead 0x37C]).agenda = memRead 0x37C :: [] := by decide

theorem witness_StatusRegisterFields :
    (ve6.withAgenda [memWrite 0x008 0xFFFFFFFF]).agenda = memWrite 0x008 0xFFFFFFFF :: [] ∧
    (ve6.withAgenda [memRead 0x008]).agenda = memRead 0x008 :: [] ∧ State.reset.err = false := by decide

theorem witness_CtrlRegisterFields :
    (ve6.withAgenda [memWrite 0x004 6]).agenda = memWrite 0x004 6 :: [] ∧ (6 : Word).getLsbD 0 = false ∧
    (ve6.withAgenda [memWrite 0x004 7]).agenda = memWrite 0x004 7 :: [] ∧ (7 : Word).getLsbD 0 = true := by decide

theorem witness_IntrospectionRegistersShowTheConfiguration :
    (vt1.busy = none ∧ vt1.cfg.valid = true ∧ Inv vt1 ∧ vt1.channels ≤ 1) ∧
    (State.reset.busy = none ∧ State.reset.cfg.valid = false ∧ Inv State.reset ∧ State.reset.channels ≤ 3) ∧
    (∀ off ∈ [0x014, 0x024, 0x300, 0x37C],
      off % 4 = 0 ∧ (0x014 ≤ off ∧ off < 0x028 ∨ 0x300 ≤ off ∧ off < 0x380)) ∧
    ((holding 0 vt1).withAgenda [memWrite 0x000 7]).agenda = memWrite 0x000 7 :: [] :=
  ⟨⟨rfl, rfl, inv_vt1, by decide⟩, ⟨rfl, rfl, inv_reset, by decide⟩, by decide, rfl⟩

theorem witness_CmdAndErrcmdReadTheRecords :
    (ve6.busy = none ∧ (ve6.withAgenda [memWrite 0x010 1]).agenda = memWrite 0x010 1 :: []) ∧
    ((holding 0 vt1).busy ≠ none ∧ ((holding 0 vt1).withAgenda [memRead 0x00C]).agenda = memRead 0x00C :: []) ∧
    (∃ t, step (holding 0x30000000 vt1) = .next t ∧ t.lastCmd ≠ (holding 0x30000000 vt1).lastCmd) ∧
    (∃ t, step (holding 0x07000000 vt1) = .next t ∧ t.errCmd ≠ (holding 0x07000000 vt1).errCmd) := by
  refine ⟨?_, ?_, ⟨_, rfl, ?_⟩, ⟨_, rfl, ?_⟩⟩ <;> decide +kernel

theorem witness_RegisterWindowsWriteOneWord_held :
    (holding 0 vt1).busy ≠ none ∧ Aligned ⟨true, 0x100, 2, 0⟩ ∧ Aligned ⟨true, 0x23C, 2, 0⟩ := by
  unfold Aligned; decide +kernel

theorem witness_RegisterWindowsWriteOneWord :
    State.reset.busy = none ∧
    (State.reset.withAgenda [memWrite (0x100 + 16 * 15 + 4 * 3) 1]).agenda
      = memWrite (0x100 + 16 * 15 + 4 * 3) 1 :: [] ∧
    (State.reset.withAgenda [memWrite (0x200 + 16 * 3 + 4 * 3) 1]).agenda
      = memWrite (0x200 + 16 * 3 + 4 * 3) 1 :: [] ∧
    (State.reset.withAgenda (wrx 15 7)).agenda = wrx 15 7 ++ [] ∧
    (State.reset.withAgenda (wrfp 3 7)).agenda = wrfp 3 7 ++ [] := by decide

theorem witness_RegisterWindowsWriteOneWord_results :
    (holding 0 vt1).busy ≠ none ∧
    (∃ t, engineStep ((holding 0 vt1).withAgenda (rdx 15 ++ (holding 0 vt1).agenda)) = .next t) ∧
    ∃ t, engineStep ((holding 0 vt1).withAgenda (rdfp 3 ++ (holding 0 vt1).agenda)) = .next t :=
  ⟨by decide, ⟨_, rfl⟩, ⟨_, rfl⟩⟩

theorem witness_IrqIsTheLevelOfTheEnabledSources_fall :
    ∃ t, step { ve6 with errIe := true, agenda := [memWrite 0x004 0] } = .next t ∧
      ({ ve6 with errIe := true, agenda := [memWrite 0x004 0] } : State).irq = true ∧ t.irq = false := by
  refine ⟨_, rfl, ?_, ?_⟩ <;> decide +kernel

theorem witness_IrqIsTheLevelOfTheEnabledSources :
    (ve6.withAgenda [memWrite 0x004 0]).agenda = memWrite 0x004 0 :: [] ∧ (0 : Word).getLsbD 0 = false ∧
    (0 : Word).getLsbD 1 = false ∧ (0 : Word).getLsbD 2 = false ∧
    (ve6.withAgenda [memWrite 0x008 12]).agenda = memWrite 0x008 12 :: [] ∧ (12 : Word).getLsbD 2 = true ∧
    (12 : Word).getLsbD 3 = true := by decide

/-! ## The arithmetic unit -/

theorem witness_ReduceWritesTheResidue :
    (14 : Reg).val % 2 = 0 ∧
    Width.w127.modulus * Width.w127.modulus ≤ pairNat (withX [(14, 1), (15, 0x3FFFFFFFFFFFFFFFFFFFFFFFFFFFFFFF)]) 14 ∧
    pairNat (withX [(14, 0), (15, 0x3FFFFFFFFFFFFFFFFFFFFFFFFFFFFFFF)]) 14 + 1
      = Width.w127.modulus * Width.w127.modulus := by decide +kernel

theorem witness_TwoFoldsAndACorrectionReduce :
    Width.w61.modulus * Width.w61.modulus - 1 < Width.w61.modulus * Width.w61.modulus ∧
    0 < Width.w127.modulus * Width.w127.modulus := by decide +kernel

/-- Used by MULADD and MULADDR: operands at p - 1, and each operand at p. -/
theorem witness_multiplyOperands :
    (14 : Reg).val % 2 = 0 ∧
    xNat (withX [(1, p61)]) 1 = Width.w61.modulus ∧ xNat (withX [(2, p61)]) 2 = Width.w61.modulus ∧
    xNat (withX [(3, p61)]) 3 = Width.w61.modulus ∧
    (xNat (withX [(1, p127 - 1)]) 1 < Width.w127.modulus ∧ xNat (withX [(2, p127 - 1)]) 2 < Width.w127.modulus) := by
  decide +kernel

theorem witness_MuladdWritesTheExactSum :
    (4 : Reg).val % 2 = 0 ∧ Width.w61.modulus ≤ xNat (withX [(1, p61)]) 1 ∧
    xNat (withX [(1, p89 - 1)]) 1 < Width.w89.modulus ∧ xNat (withX [(1, p89 - 1)]) 2 < Width.w89.modulus := by
  decide +kernel

theorem witness_MuladdrWritesTheResidueOfTheSum :
    Width.w107.modulus ≤ xNat (withX [(3, p107)]) 3 ∧ xNat (withX [(3, p107 - 1)]) 3 < Width.w107.modulus ∧
    xNat (withX [(3, p107 - 1)]) 1 < Width.w107.modulus := by decide +kernel

theorem witness_ReduceOfMuladdIsMuladdr :
    (4 : Reg).val % 2 = 0 ∧ xNat (withX [(1, p127 - 1)]) 1 < Width.w127.modulus := by decide +kernel

theorem witness_PowWritesThePower :
    Width.w61.modulus ≤ xNat (withX [(1, p61)]) 1 ∧ xNat (withX [(1, p61 - 1)]) 1 < Width.w61.modulus ∧
    xNat (withX [(1, p61 - 1)]) 2 = 0 := by decide +kernel

theorem witness_InvWritesTheInverse :
    Width.w127.modulus ≤ xNat (withX [(1, p127)]) 1 ∧
    (xNat (withX [(1, p127 - 1)]) 1 < Width.w127.modulus ∧ 1 ≤ xNat (withX [(1, p127 - 1)]) 1) ∧
    (xNat State.reset 1 < Width.w127.modulus ∧ xNat State.reset 1 = 0) := by decide +kernel

theorem witness_RandWritesANonzeroElement :
    1 ≤ 1 ∧ 1 ≤ Width.w61.modulus - 1 ∧ 1 ≤ Width.w127.modulus - 1 := by decide +kernel

theorem witness_RejectionSamplingTakesTheFirstAcceptableWord :
    (acceptable .w89 [0, p89, p89 - 1] = (p89 - 1).toNat :: [] ∧
      ∃ t, exec (.rand 7 .w89) { State.reset with rng := [0, p89, p89 - 1] } = .next t) ∧
    (∃ t, exec (.configRandom 0 (some .w183)) { withX [(0, 3)] with rng := [11, 0, 13, p61, 11] } = .next t ∧
      t.err = false) ∧
    WSel.w183.channels ≤ (acceptable .w61 [11, 0, 13, p61, 11]).length ∧
    (1 ≤ Width.w61.modulus - 1) := by
  refine ⟨⟨?_, _, rfl⟩, ⟨_, rfl, ?_⟩, ?_, ?_⟩ <;> decide +kernel

theorem witness_ArithmeticIgnoresTheConfiguration :
    isArithmetic (.reduce 0 2 .w61) = true ∧ isArithmetic (.rand 7 .w127) = true := by decide

/-! ## The table controller -/

theorem witness_ConfigBuildsTheWholeConfiguration :
    (opcode 0x10010801 = 0x10 ∧ bits 0x10010801 11 1 = 1 ∧ (0x10010801 : Word) &&& 0xFF00F8FF ≠ 0x10000800) ∧
    15 < (13 : Reg).val + WSel.w244.channels - 1 ∧ (12 : Reg).val + WSel.w244.channels - 1 ≤ 15 ∧
    xNat State.reset 0 = 0 ∧ 2 ^ 64 ≤ xNat (withX [(0, 0x10000000000000000)]) 0 ∧
    (xNat (withX [(0, 0xFFFFFFFFFFFFFFFF)]) 0 ≠ 0 ∧ xNat (withX [(0, 0xFFFFFFFFFFFFFFFF)]) 0 < 2 ^ 64) ∧
    (∃ c < WSel.w244.channels, xNat (withX [(0, 1), (12, 1), (13, 1), (14, 1)]) (12 + c) = 0) ∧
    (∃ c < WSel.w61.channels, WSel.w61.modulus ≤ xNat (withX [(0, 1), (1, p61)]) (1 + c)) ∧
    (∀ c < WSel.w122.channels, xNat (withX [(0, 1), (1, 1), (2, p61 - 1)]) (1 + c) ≠ 0 ∧
      xNat (withX [(0, 1), (1, 1), (2, p61 - 1)]) (1 + c) < WSel.w122.modulus) := by decide +kernel

/-- The same statement with E = 0. -/
theorem witness_ConfigBuildsTheWholeConfiguration_drawn :
    (opcode 0x10010000 = 0x10 ∧ bits 0x10010000 11 1 = 0 ∧ (0x10010000 : Word) &&& 0xFF0FF8FF ≠ 0x10000000) ∧
    xNat State.reset 0 = 0 ∧ 2 ^ 64 ≤ xNat (withX [(0, 0x10000000000000000)]) 0 ∧
    (xNat (withX [(0, 0xFFFFFFFFFFFFFFFF)]) 0 ≠ 0 ∧ xNat (withX [(0, 0xFFFFFFFFFFFFFFFF)]) 0 < 2 ^ 64) := by
  decide +kernel

theorem witness_ConfigRandomCanDrawAnyBases :
    (∃ t, exec (.configRandom 0 (some .w183)) { withX [(0, 3)] with rng := [11, 13, 11] } = .next t ∧ t.err = false) ∧
    xNat (withX [(0, 3)]) 0 ≠ 0 ∧ xNat (withX [(0, 3)]) 0 < 2 ^ 64 ∧
    (∀ c < WSel.w244.channels, 1 ≤ (fun _ => WSel.w244.modulus - 1) c ∧
      (fun _ => WSel.w244.modulus - 1) c ≤ WSel.w244.modulus - 1) := by
  refine ⟨⟨_, rfl, ?_⟩, ?_, ?_, ?_⟩ <;> decide +kernel

theorem witness_OnlyConfigWritesTheConfiguration :
    (∃ t, step (holding 0x10010800 (withX [(0, 4), (1, 5)])) = .next t ∧
      t.cfg ≠ (holding 0x10010800 (withX [(0, 4), (1, 5)])).cfg) ∧
    (∃ t, step (vt1.withAgenda [softReset]) = .next t ∧ t.cfg ≠ vt1.cfg) := by
  refine ⟨⟨_, rfl, ?_⟩, ⟨_, rfl, ?_⟩⟩ <;> decide +kernel

theorem witness_TableEntriesAreRollDeltas :
    Inv vt1 ∧ vt1.cfg.valid = true ∧ 0 < vt1.channels ∧ (254 : Byte).toNat < 255 :=
  ⟨inv_vt1, rfl, by decide, by decide⟩

theorem witness_LookupReadsTheTable :
    State.reset.cfg.valid = false ∧ (vt20.cfg.valid = true ∧ vt20.channels ≤ (2 : Chan).val) ∧
    (1 : Chan).val < vt20.channels := by decide +kernel

theorem witness_CrateIsTheNearestBinary64 :
    State.reset.cfg.valid = false ∧ (Inv vr7 ∧ vr7.cfg.valid = true ∧ vr7.cfg.tau.toNat = 1) ∧
    (Inv vt1 ∧ vt1.cfg.tau.toNat ≠ 1) ∧ finiteBinary64 0x7FEFFFFFFFFFFFFF :=
  ⟨rfl, ⟨inv_vr7, rfl, rfl⟩, ⟨inv_vt1, by decide⟩, by unfold finiteBinary64; decide⟩

/-! ## The roll unit and the combiner -/

/-- FILL and SLIDE: not configured; FP at P in the last channel; FP at P - 1 in every channel. -/
theorem witness_rollOperands :
    State.reset.cfg.valid = false ∧
    (vt20.cfg.valid = true ∧ FpOutOfRange (withFp 0 p61 0 0 vt20)) ∧
    ¬ FpOutOfRange (withFp (p61 - 1) (p61 - 1) p61 p61 vt20) := by unfold FpOutOfRange; decide +kernel

theorem witness_FillRollsEveryChannel : ¬ FpOutOfRange vt1 ∧ FpOutOfRange (withFp p61 0 0 0 vt1) := by
  unfold FpOutOfRange; decide +kernel

theorem witness_SlideRollsEveryChannel : ¬ FpOutOfRange vt20 ∧ FpOutOfRange (withFp 0 p61 0 0 vt20) := by
  unfold FpOutOfRange; decide +kernel

theorem witness_SlideIsTheClosedForm : Inv vt1 ∧ vt1.cfg.valid = true ∧ ¬ FpOutOfRange vt1 :=
  ⟨inv_vt1, rfl, by unfold FpOutOfRange; decide +kernel⟩

theorem witness_WindowLaw :
    Inv vt20 ∧ vt20.cfg.valid = true ∧ (1 ≤ 1 ∧ 3 ≤ vt20.cfg.tau.toNat) ∧ vt20.cfg.tau.toNat ≤ 3 :=
  ⟨inv_vt20, rfl, by decide, by decide⟩

theorem witness_RollingEqualsAFreshFill : Inv vt20 ∧ vt20.cfg.valid = true := ⟨inv_vt20, rfl⟩

theorem witness_ChannelsAreIndependent :
    Inv vt20 ∧ vt20.cfg.valid = true ∧ vt20.cfg.wsel.width = .w61 ∧ 1 < vt20.channels ∧ ¬ FpOutOfRange vt20 ∧
    (∀ i ∈ [Instr.fill 97, .slide 97 100], isRoll i = true) :=
  ⟨inv_vt20, rfl, rfl, by decide, by unfold FpOutOfRange; decide +kernel, by decide⟩

theorem witness_WindowOfOneByte :
    Inv vr7 ∧ vr7.cfg.valid = true ∧ vr7.cfg.tau.toNat = 1 ∧ ¬ FpOutOfRange vr7 :=
  ⟨inv_vr7, rfl, rfl, by unfold FpOutOfRange; decide +kernel⟩

theorem witness_FpgetCopiesTheTuple :
    State.reset.cfg.valid = false ∧ vt14.cfg.valid = true ∧ 15 < (13 : Reg).val + vt14.channels - 1 ∧
    (12 : Reg).val + vt14.channels - 1 ≤ 15 := by decide +kernel

theorem witness_FpputLoadsTheTuple :
    State.reset.cfg.valid = false ∧ vt20.cfg.valid = true ∧ 15 < (15 : Reg).val + vt20.channels - 1 ∧
    (14 : Reg).val + vt20.channels - 1 ≤ 15 := by decide +kernel

theorem witness_CmpOrdersTheTuples :
    State.reset.cfg.valid = false ∧ vt20.cfg.valid = true ∧ 15 < (15 : Reg).val + vt20.channels - 1 ∧
    (14 : Reg).val + vt20.channels - 1 ≤ 15 ∧
    (∃ c < vt20.channels, vt20.modulus ≤ xNat { vt20 with x := (withX [(15, p61)]).x } (14 + c)) ∧
    (∀ c < vt20.channels, xNat { vt20 with x := (withX [(15, p61 - 1)]).x } (14 + c) < vt20.modulus) := by
  decide +kernel

theorem witness_Pack2PacksTwoChannels :
    State.reset.cfg.valid = false ∧ (vt1.cfg.valid = true ∧ vt1.channels ≠ 2) ∧
    (vt20.channels = 2 ∧ vt20.modulus ≤ fpNat (withFp 0 p61 0 0 vt20) 1) ∧
    (fpNat (withFp (p61 - 1) (p61 - 1) 0 0 vt20) 0 < vt20.modulus ∧
      fpNat (withFp (p61 - 1) (p61 - 1) 0 0 vt20) 1 < vt20.modulus) := by decide +kernel

theorem witness_PackedOrderIsTupleOrder :
    vt20.cfg.valid = true ∧ vt20.channels = 2 ∧ (∀ c < 2, fpNat (withFp (p61 - 1) (p61 - 1) 0 0 vt20) c < 2 ^ 61 - 1) ∧
    (∀ c < 2, fpNat vt20 c < 2 ^ 61 - 1) := by decide +kernel

/-! ## Reset and the invariant -/

theorem witness_UnconfiguredEngineRaisesNotConfigured :
    (ResetFrom State.reset State.reset ∧
      (State.reset.withAgenda [memWrite 0x00C 0]).agenda = memWrite 0x00C 0 :: []) ∧
    (State.reset.cfg.valid = false ∧ needsConfiguration (.fill 1) = true) ∧
    (∃ t, exec .fpclr State.reset = .next t ∧ State.reset.err = false ∧ t.err = false) := by
  refine ⟨⟨?_, ?_⟩, ?_, ⟨_, rfl, ?_, ?_⟩⟩
  · exact resetFrom_reset
  all_goals decide +kernel

theorem witness_EveryStepKeepsTheInvariant : Inv vt20 ∧ ∃ t, step (vt20.withAgenda [memRead 0x008]) = .next t :=
  ⟨inv_vt20, _, rfl⟩

end Sys2Proof.Tests
end

section
/-! SUPPORT. The word of a decoded command is the word it was decoded from (30_encoding.md R113): a word is put together
again from its fields, and the bits no field holds are those its row fixes. -/

namespace Sys2Proof

/-- Bits [lo+n-1:lo] of a word that matches its row, where the row fixes all of them. -/
theorem field_of_row {w : Word} {op : Op} {e : Bool} (h : w &&& op.mask e = op.pattern e) (lo n : Nat) {z : BitVec n}
    (hz : (op.mask e).extractLsb' lo n = BitVec.allOnes n ∧ (op.pattern e).extractLsb' lo n = z) :
    w.extractLsb' lo n = z := by
  rw [← hz.2, ← h, BitVec.extractLsb'_and, hz.1, BitVec.and_allOnes]

/-- A field of a word as a number. -/
theorem field_toNat {w : Word} {lo n : Nat} {v : BitVec n} (h : w.extractLsb' lo n = v) :
    v.toNat = w.toNat / 2 ^ lo % 2 ^ n := by
  rw [← h, BitVec.extractLsb'_toNat, Nat.shiftRight_eq_div_pow]

theorem formatN_of_fields {w : Word} {op : BitVec 8} (hop : w.extractLsb' 24 8 = op) (h0 : w.extractLsb' 0 24 = 0#24) :
    formatN op = w := by
  apply BitVec.eq_of_toNat_eq
  have e0 := field_toNat h0
  rw [formatN_toNat, field_toNat hop]
  simp only [BitVec.toNat_ofNat] at e0
  omega

theorem formatR_of_fields {w : Word} {op : BitVec 8} {rd rs1 rs2 rs3 : BitVec 4} {sw : BitVec 2}
    (hop : w.extractLsb' 24 8 = op) (hrd : w.extractLsb' 20 4 = rd) (hrs1 : w.extractLsb' 16 4 = rs1)
    (hrs2 : w.extractLsb' 12 4 = rs2) (hrs3 : w.extractLsb' 8 4 = rs3) (h0 : w.extractLsb' 2 6 = 0#6)
    (hsw : w.extractLsb' 0 2 = sw) : formatR op rd rs1 rs2 rs3 sw = w := by
  apply BitVec.eq_of_toNat_eq
  have e0 := field_toNat h0
  rw [formatR_toNat, field_toNat hop, field_toNat hrd, field_toNat hrs1, field_toNat hrs2, field_toNat hrs3,
    field_toNat hsw]
  simp only [BitVec.toNat_ofNat] at e0
  omega

theorem formatC_of_fields {w : Word} {op : BitVec 8} {rt rb : BitVec 4} {e : BitVec 1} {wsel : BitVec 3}
    (hop : w.extractLsb' 24 8 = op) (hrt : w.extractLsb' 20 4 = rt) (hrb : w.extractLsb' 16 4 = rb)
    (h12 : w.extractLsb' 12 4 = 0#4) (he : w.extractLsb' 11 1 = e) (hwsel : w.extractLsb' 8 3 = wsel)
    (h0 : w.extractLsb' 0 8 = 0#8) : formatC op rt rb e wsel = w := by
  apply BitVec.eq_of_toNat_eq
  have e12 := field_toNat h12
  have e0 := field_toNat h0
  rw [formatC_toNat, field_toNat hop, field_toNat hrt, field_toNat hrb, field_toNat he, field_toNat hwsel]
  simp only [BitVec.toNat_ofNat] at e12 e0
  omega

theorem formatL_of_fields {w : Word} {op : BitVec 8} {rd : BitVec 4} {ch : BitVec 2} {a b : Byte}
    (hop : w.extractLsb' 24 8 = op) (hrd : w.extractLsb' 20 4 = rd) (hch : w.extractLsb' 18 2 = ch)
    (h16 : w.extractLsb' 16 2 = 0#2) (ha : w.extractLsb' 8 8 = a) (hb : w.extractLsb' 0 8 = b) :
    formatL op rd ch a b = w := by
  apply BitVec.eq_of_toNat_eq
  have e16 := field_toNat h16
  rw [formatL_toNat, field_toNat hop, field_toNat hrd, field_toNat hch, field_toNat ha, field_toNat hb]
  simp only [BitVec.toNat_ofNat] at e16
  omega

theorem formatB_of_fields {w : Word} {op : BitVec 8} {a b : Byte} (hop : w.extractLsb' 24 8 = op)
    (h16 : w.extractLsb' 16 8 = 0#8) (ha : w.extractLsb' 8 8 = a) (hb : w.extractLsb' 0 8 = b) :
    formatB op a b = w := by
  apply BitVec.eq_of_toNat_eq
  have e16 := field_toNat h16
  rw [formatB_toNat, field_toNat hop, field_toNat ha, field_toNat hb]
  simp only [BitVec.toNat_ofNat] at e16
  omega

/-- The bits of the channel a field names are the field. -/
theorem ofNat_chanField (w : Word) : w.extractLsb' 18 2 = BitVec.ofNat 2 (chanField w).val :=
  BitVec.eq_of_toNat_eq (by simp [chanField])

/-- A word that matches the row of its opcode is the word of the command it holds. -/
theorem encode_instr {w : Word} {op : Op} (hop : w.extractLsb' 24 8 = op.byte)
    (hm : w &&& op.mask (w.getLsbD 11) = op.pattern (w.getLsbD 11)) : encode (op.instr w) = w := by
  have reg (lo : Nat) : w.extractLsb' lo 4 = regBits (regField lo w) := (regBits_regField w lo).symm
  have sw : w.extractLsb' 0 2 = (Width.ofCode (w.extractLsb' 0 2)).code := (Width.code_ofCode _).symm
  have wsel : w.extractLsb' 8 3 = WSel.fieldCode (WSel.ofCode (w.extractLsb' 8 3)) := (WSel.fieldCode_ofCode _).symm
  have fixed (lo n : Nat) {z : BitVec n} (h : ∀ e, (op.mask e).extractLsb' lo n = BitVec.allOnes n ∧
      (op.pattern e).extractLsb' lo n = z) : w.extractLsb' lo n = z := field_of_row hm lo n (h _)
  cases op with
  | nop => exact formatN_of_fields hop (fixed 0 24 (by decide))
  | reduce =>
    exact formatR_of_fields hop (reg 20) (reg 16) (fixed 12 4 (by decide)) (fixed 8 4 (by decide))
      (fixed 2 6 (by decide)) sw
  | muladd => exact formatR_of_fields hop (reg 20) (reg 16) (reg 12) (reg 8) (fixed 2 6 (by decide)) sw
  | muladdr => exact formatR_of_fields hop (reg 20) (reg 16) (reg 12) (reg 8) (fixed 2 6 (by decide)) sw
  | pow => exact formatR_of_fields hop (reg 20) (reg 16) (reg 12) (fixed 8 4 (by decide)) (fixed 2 6 (by decide)) sw
  | inv =>
    exact formatR_of_fields hop (reg 20) (reg 16) (fixed 12 4 (by decide)) (fixed 8 4 (by decide))
      (fixed 2 6 (by decide)) sw
  | rand =>
    exact formatR_of_fields hop (reg 20) (fixed 16 4 (by decide)) (fixed 12 4 (by decide)) (fixed 8 4 (by decide))
      (fixed 2 6 (by decide)) sw
  | config =>
    cases hE : w.getLsbD 11 with
    | true =>
      rw [hE] at hm
      rw [Op.instr, if_pos hE]
      exact formatC_of_fields hop (reg 20) (reg 16) (fixed 12 4 (by decide)) (field_of_row hm 11 1 (by decide)) wsel
        (fixed 0 8 (by decide))
    | false =>
      rw [hE] at hm
      rw [Op.instr, hE, if_neg Bool.false_ne_true]
      exact formatC_of_fields hop (reg 20) (field_of_row hm 16 4 (by decide)) (fixed 12 4 (by decide))
        (field_of_row hm 11 1 (by decide)) wsel (fixed 0 8 (by decide))
  | lookup => exact formatL_of_fields hop (reg 20) (ofNat_chanField w) (fixed 16 2 (by decide)) rfl rfl
  | fill => exact formatB_of_fields hop (fixed 16 8 (by decide)) (fixed 8 8 (by decide)) rfl
  | slide => exact formatB_of_fields hop (fixed 16 8 (by decide)) rfl rfl
  | fpclr => exact formatN_of_fields hop (fixed 0 24 (by decide))
  | fpget =>
    exact formatR_of_fields hop (reg 20) (fixed 16 4 (by decide)) (fixed 12 4 (by decide)) (fixed 8 4 (by decide))
      (fixed 2 6 (by decide)) (fixed 0 2 (by decide))
  | fpput =>
    exact formatR_of_fields hop (fixed 20 4 (by decide)) (reg 16) (fixed 12 4 (by decide)) (fixed 8 4 (by decide))
      (fixed 2 6 (by decide)) (fixed 0 2 (by decide))
  | cmp =>
    exact formatR_of_fields hop (reg 20) (reg 16) (reg 12) (fixed 8 4 (by decide)) (fixed 2 6 (by decide))
      (fixed 0 2 (by decide))
  | pack2 =>
    exact formatR_of_fields hop (reg 20) (fixed 16 4 (by decide)) (fixed 12 4 (by decide)) (fixed 8 4 (by decide))
      (fixed 2 6 (by decide)) (fixed 0 2 (by decide))

/-- The word the decoder reads is the word of the command it reads. -/
theorem encode_of_decode {w : Word} {i : Instr} (h : decode w = .ok i) : encode i = w := by
  rcases decode_cases w with ⟨-, hd⟩ | ⟨op, hop, ⟨hm, hd⟩ | ⟨-, hd⟩⟩
  · cases hd.symm.trans h
  · cases hd.symm.trans h
    exact encode_instr (Op.byte_of_ofByte hop).symm hm
  · cases hd.symm.trans h

end Sys2Proof
end

section
/-! SUPPORT. The host's accesses as steps: what a MemRead or a MemWrite at an offset does (20_memory.md R66 to R71), and
which registers wait or ignore writes. -/

namespace Sys2Proof.Machine

open Sys2Proof.Spec

/-! ## The map -/

/-- The offsets of a register the host can write (20_memory.md R66); of the others nothing is said. -/
def PortReg.WritableAt (off : Nat) : PortReg → Prop
  | .ctrl => off = 0x004
  | .status => off = 0x008
  | .cmd => off = 0x00C
  | .x _ _ => 0x100 ≤ off ∧ off < 0x200
  | .fp _ _ => 0x200 ≤ off ∧ off < 0x240
  | .id | .errCmd | .cfgInfo | .cfgTau _ | .crate _ | .cfgBase _ _ | .cfgMaxExp _ _ | .reserved => True

theorem lowPortReg_writableAt (off : Nat) : (lowPortReg off).WritableAt off := by
  rcases lowPortReg_cases off with ⟨h, hr⟩ | ⟨h, hr⟩ | ⟨h, hr⟩ | ⟨h, hr⟩ | ⟨h, hr⟩ | ⟨h, hr⟩ | ⟨h, hr⟩ | ⟨h, hr⟩ |
    ⟨h, hr⟩ | ⟨h, hr⟩ | ⟨_, _, _, _, _, _, _, _, _, _, hr⟩ <;> rw [hr]
  case inr.inl | inr.inr.inl | inr.inr.inr.inl => exact h
  all_goals trivial

theorem portReg_writableAt (off : Nat) : (portReg off).WritableAt off := by
  rcases portReg_cases off with ⟨_, hr⟩ | ⟨h1, h2, hr⟩ | ⟨h1, h2, hr⟩ | ⟨_, _, hr⟩ | ⟨_, _, hr⟩ | ⟨_, _, hr⟩ |
    ⟨_, hr⟩ <;> rw [hr]
  · exact lowPortReg_writableAt off
  · exact ⟨h1, h2⟩
  · exact ⟨h1, h2⟩
  all_goals trivial

/-- Only offset 4 names CTRL. -/
theorem portReg_eq_ctrl {off : Nat} (h : portReg off = .ctrl) : off = 0x004 := by
  have := portReg_writableAt off
  rwa [h] at this

/-- Only offset 8 names STATUS. -/
theorem portReg_eq_status {off : Nat} (h : portReg off = .status) : off = 0x008 := by
  have := portReg_writableAt off
  rwa [h] at this

/-- A write of a read-only register is ignored (20_memory.md R68). -/
theorem writeReg_readOnly {off : Nat} (h : readOnlyOffset off = true) (v : Word) (s : State) :
    s.writeReg v (portReg off) = s := by
  simp only [readOnlyOffset, Bool.or_eq_true, Bool.and_eq_true, beq_iff_eq, decide_eq_true_eq] at h
  have hat := portReg_writableAt off
  rcases writeReg_cases v s (portReg off) with he | ⟨hr, _⟩ | ⟨hr, _⟩ | ⟨hr, _⟩ | ⟨hr, _⟩ | ⟨hr, _⟩ | ⟨hr, _⟩ |
    ⟨_, _, hr, _⟩ | ⟨_, _, hr, _⟩
  · exact he
  all_goals
    rw [hr] at hat
    simp only [PortReg.WritableAt] at hat
    omega

theorem held_lowPortReg {off : Nat} : (lowPortReg off).held = true ↔ 0x00C ≤ off ∧ off < 0x028 ∧ off % 4 = 0 := by
  rcases lowPortReg_cases off with ⟨h, hr⟩ | ⟨h, hr⟩ | ⟨h, hr⟩ | ⟨h, hr⟩ | ⟨h, hr⟩ | ⟨h, hr⟩ | ⟨h, hr⟩ | ⟨h, hr⟩ |
    ⟨h, hr⟩ | ⟨h, hr⟩ | ⟨_, _, _, _, _, _, _, _, _, _, hr⟩ <;>
  · simp only [hr, PortReg.held, Bool.false_eq_true, true_iff, false_iff]
    omega

/-- The registers that wait while busy are those of the held offsets (20_memory.md R66, R70). -/
theorem held_portReg {off : Nat} (h4 : off % 4 = 0) : (portReg off).held = heldOffset off := by
  rw [Bool.eq_iff_iff]
  simp only [heldOffset, Bool.or_eq_true, Bool.and_eq_true, beq_iff_eq, decide_eq_true_eq]
  rcases portReg_cases off with ⟨_, hr⟩ | ⟨_, _, hr⟩ | ⟨_, _, hr⟩ | ⟨_, _, hr⟩ | ⟨_, _, hr⟩ | ⟨_, _, hr⟩ | ⟨_, hr⟩
  case inl =>
    rw [hr, held_lowPortReg]
    omega
  all_goals
    simp only [hr, PortReg.held, Bool.false_eq_true, true_iff, false_iff]
    omega

/-! ## Aligned accesses -/

/-- What a register reads does not depend on the events ahead. -/
@[simp] theorem readReg_withAgenda (s : State) (rest : List Event) (r : PortReg) :
    (s.withAgenda rest).readReg r = s.readReg r := by
  cases r <;> rfl

/-- An aligned access waits while busy exactly at a held offset. -/
theorem held_of_aligned {a : Access} (h : Aligned a) : a.held = heldOffset a.addr.toNat := by
  rw [Access.held, (legal_iff a).2 h, Access.reg, held_portReg h.2, Bool.true_and]

theorem held_access {write : Bool} {off : Nat} {v : Word} (h : off < 1024) (h4 : off % 4 = 0) :
    (Access.mk write (BitVec.ofNat 10 off) 2 v).held = heldOffset off := by
  obtain ⟨hl, hr⟩ := access_at (write := write) (v := v) h h4
  rw [Access.held, hl, hr, held_portReg h4, Bool.true_and]

/-- While a command is busy a held access waits: the engine has its turn (R70). -/
theorem step_of_busy_held {s : State} {a : Access} {rest : List Event} (ha : s.agenda = .access a :: rest)
    (hb : s.busy ≠ none) (hh : a.held = true) : step s = engineStep s :=
  step_held ha (by rw [State.busyBit, Option.isSome_iff_ne_none.2 hb, hh]; rfl)

theorem heldOffset_of_window {off : Nat} (hlo : 0x100 ≤ off) (hhi : off < 0x240) : heldOffset off = true := by
  simp only [heldOffset, Bool.or_eq_true, Bool.and_eq_true, decide_eq_true_eq]
  omega

/-- An access at this offset is answered at once: it is aligned, and the engine is idle or the offset never held. -/
def Answerable (s : State) (off : Nat) : Prop :=
  off < 1024 ∧ off % 4 = 0 ∧ (s.busy = none ∨ heldOffset off = false)

theorem Answerable.not_held {s : State} {off : Nat} (h : Answerable s off) (write : Bool) (v : Word) :
    (s.busyBit && (Access.mk write (BitVec.ofNat 10 off) 2 v).held) = false := by
  obtain ⟨ho, h4, hb | hh⟩ := h
  · rw [State.busyBit, hb]
    rfl
  · rw [held_access ho h4, hh, Bool.and_false]

/-- A read that does not wait is answered with its register's word and changes nothing (R69). -/
theorem step_memRead {s : State} {off : Nat} {rest : List Event} (h : Answerable s off)
    (ha : s.agenda = memRead off :: rest) :
    step s = .next (answered s rest (some (s.readReg (portReg off))) false) := by
  obtain ⟨hl, hr⟩ := access_at (write := false) (v := 0) h.1 h.2.1
  rw [step_access ha (h.not_held _ _), State.completeAccess, hl, hr, readReg_withAgenda]
  rfl

/-- A write that does not wait is answered, and its register written. -/
theorem step_memWrite {s : State} {off : Nat} {v : Word} {rest : List Event} (h : Answerable s off)
    (ha : s.agenda = memWrite off v :: rest) :
    step s = .next (((s.withAgenda rest).writeReg v (portReg off)).respond ⟨none, false⟩) := by
  obtain ⟨hl, hr⟩ := access_at (write := true) (v := v) h.1 h.2.1
  rw [step_access ha (h.not_held _ _), State.completeAccess, hl, hr]
  rfl

/-- A read-only register takes a write that does not wait as answered and ignored (R68). -/
theorem step_memWrite_readOnly {s : State} {off : Nat} {v : Word} {rest : List Event} (h : Answerable s off)
    (hr : readOnlyOffset off = true) (ha : s.agenda = memWrite off v :: rest) :
    step s = .next (answered s rest none false) := by
  rw [step_memWrite h ha, writeReg_readOnly hr]
  rfl

/-- An answerable read reads what its register shows. -/
theorem readsAs_of_answerable {s : State} {off : Nat} {w : Word} (h : Answerable s off)
    (hw : s.readReg (portReg off) = w) : ReadsAs s off w := by
  intro rest ha
  rw [step_memRead h ha, hw]

/-- Everything is answered at once while the engine is idle. -/
theorem answerable_of_idle {s : State} {off : Nat} (hb : s.busy = none) (h : off < 1024) (h4 : off % 4 = 0) :
    Answerable s off := ⟨h, h4, .inl hb⟩

theorem readsAs_of_idle {s : State} {off : Nat} {w : Word} (hb : s.busy = none) (hw : s.readReg (portReg off) = w)
    (h : off < 1024 := by decide) (h4 : off % 4 = 0 := by decide) : ReadsAs s off w :=
  readsAs_of_answerable (answerable_of_idle hb h h4) hw

/-- ID, CTRL and STATUS are answered at once, busy or not (R66). -/
theorem answerable_low (s : State) {off : Nat} (h : off < 0x00C) (h4 : off % 4 = 0) : Answerable s off :=
  ⟨by omega, h4, .inr (by simp [heldOffset]; omega)⟩

end Sys2Proof.Machine
end

section
/-! SUPPORT. What one step can do to the engine's records DONE, ERR, ERRCODE, LASTCMD and ERRCMD (60_exceptions.md R233 to
R236, 70_reset_and_hazards.md R260, R261), said once for all events. -/

namespace Sys2Proof.Machine

open Sys2Proof.Spec

/-! ## Reset -/

theorem resetFrom_resetEngine (s : State) : ResetFrom s s.resetEngine :=
  ⟨fun n _ => resetEngine_getX s n, fun c _ => resetEngine_getFp s c, rfl, rfl, rfl,
    fun c _ => ⟨resetEngine_base s c, resetEngine_maxExp s c⟩, rfl, rfl, rfl, rfl, rfl, rfl, rfl, rfl, rfl, rfl⟩

/-- A CTRL write with bit 0 = 1 is answered, the engine in its reset state. -/
theorem step_softReset {s : State} {v : Word} {rest : List Event} (ha : s.agenda = memWrite 0x004 v :: rest)
    (hv : v.getLsbD 0 = true) :
    step s = .next ((s.withAgenda rest).resetEngine.respond ⟨none, false⟩) := by
  rw [step_memWrite (answerable_low s (by decide) (by decide)) ha, show portReg 0x004 = .ctrl from rfl, State.writeReg,
    State.writeCtrl, if_pos hv]

/-- An event that resets leaves the reset state. -/
theorem step_of_isReset {s : State} {e : Event} {rest : List Event} (ha : s.agenda = e :: rest) (he : IsReset e) :
    ∃ t, step s = .next t ∧ ResetFrom s t := by
  cases e with
  | complete => exact he.elim
  | resetLow => exact ⟨(s.withAgenda rest).pinReset, by simp only [step, ha], resetFrom_resetEngine s⟩
  | access a =>
    obtain ⟨write, addr, size, wdata⟩ := a
    obtain ⟨⟨rfl, -⟩, rfl, h4, hv⟩ := he
    obtain rfl : addr = 0x004 := BitVec.eq_of_toNat_eq h4
    exact ⟨_, step_softReset ha hv, resetFrom_resetEngine s⟩

/-! ## How the engine's turn ends -/

/-- Everything a command can do, seen from the state it leaves: the error record alone, or the completion record. -/
theorem exec_next_cases {i : Instr} {s t : State} (h : exec i s = .next t) :
    (∃ e, e ≠ .noError ∧ EndsInError (encode i) e s t) ∨ Completes (encode i) s t := by
  rcases exec_cases i s with ⟨e, he, hx⟩ | ⟨u, hu, hx⟩
  · cases hx.symm.trans h
    exact .inl ⟨e, he, raiseError_endsInError _ e s⟩
  · cases hx.symm.trans h
    exact .inr (completes_of_quiet _ hu.1)

/-- Everything the engine's turn can do, seen from the state it leaves: nothing while idle; else its busy word ends in an
error, or is a command that completes. -/
theorem engineStep_next_cases {s t : State} (h : engineStep s = .next t) :
    (s.busy = none ∧ t = s) ∨
    (∃ w e, s.busy = some w ∧ e ≠ .noError ∧ EndsInError w e s t) ∨
    ∃ w i, s.busy = some w ∧ decode w = .ok i ∧ Completes w s t := by
  rcases engineStep_cases s with ⟨hb, hx⟩ | ⟨w, e, hb, -, he, hx⟩ | ⟨w, i, e, hb, hd, he, hx⟩ |
    ⟨w, i, u, hb, hd, hu, hx⟩
  · cases hx.symm.trans h
    exact .inl ⟨hb, rfl⟩
  · cases hx.symm.trans h
    exact .inr (.inl ⟨w, e, hb, he, raiseError_endsInError w e s⟩)
  · cases hx.symm.trans h
    rw [encode_of_decode hd]
    exact .inr (.inl ⟨w, e, hb, he, raiseError_endsInError w e s⟩)
  · cases hx.symm.trans h
    rw [encode_of_decode hd]
    exact .inr (.inr ⟨w, i, hb, hd, completes_of_quiet w hu.1⟩)

/-- After the engine's turn the engine is idle and the events ahead are the same. -/
theorem engineStep_idle {s t : State} (h : engineStep s = .next t) : t.busy = none ∧ t.agenda = s.agenda := by
  rcases engineStep_next_cases h with ⟨hb, rfl⟩ | ⟨w, e, -, -, hw⟩ | ⟨w, i, -, -, hw⟩
  · exact ⟨hb, rfl⟩
  · obtain ⟨-, -, -, hb, -, -, -, -, -, -, -, ha, -⟩ := hw
    exact ⟨hb, ha⟩
  · obtain ⟨-, -, hb, -, -, -, -, -, ha, -⟩ := hw
    exact ⟨hb, ha⟩

theorem endsInError_records {w : Word} {e : ErrCode} {s t : State} (h : EndsInError w e s t) :
    t.err = true ∧ t.errCmd = w ∧ t.done = s.done ∧ t.lastCmd = s.lastCmd := by
  obtain ⟨he, -, hc, -, -, -, -, -, -, hd, hl, -⟩ := h
  exact ⟨he, hc, hd, hl⟩

theorem completes_records {w : Word} {s t : State} (h : Completes w s t) :
    t.err = s.err ∧ t.errCmd = s.errCmd ∧ t.done = true ∧ t.lastCmd = w := by
  obtain ⟨hd, hl, -, he, -, hc, -⟩ := h
  exact ⟨he, hc, hd, hl⟩

theorem resetFrom_records {s t : State} (h : ResetFrom s t) :
    t.err = false ∧ t.errCmd = 0 ∧ t.done = false ∧ t.lastCmd = 0 := by
  obtain ⟨-, -, -, -, -, -, -, -, -, he, -, hd, hl, hc, -⟩ := h
  exact ⟨he, hc, hd, hl⟩

/-! ## What an access does to the records -/

/-- From s to t the access a left the records alone, but for what a STATUS write clears (10_state.md R33). -/
def AccessKeepsRecords (a : Access) (s t : State) : Prop :=
  t.lastCmd = s.lastCmd ∧ t.errCmd = s.errCmd ∧
  (t.done = s.done ∨ t.done = false ∧ StatusWrite 3 (.access a)) ∧
  (t.err = s.err ∧ t.errCode = s.errCode ∨ t.err = false ∧ t.errCode = .noError ∧ StatusWrite 2 (.access a))

/-- A completed access is a soft reset, or keeps the records. -/
theorem completeAccess_records (a : Access) (s : State) :
    (IsReset (.access a) ∧ s.completeAccess a = s.resetEngine.respond ⟨none, false⟩) ∨
      AccessKeepsRecords a s (s.completeAccess a) := by
  rcases completeAccess_cases a s with ⟨_, hx⟩ | ⟨_, _, hx⟩ | ⟨hl, hw, hx⟩ <;> rw [hx]
  · exact .inr ⟨rfl, rfl, .inl rfl, .inl ⟨rfl, rfl⟩⟩
  · exact .inr ⟨rfl, rfl, .inl rfl, .inl ⟨rfl, rfl⟩⟩
  have hal : Aligned a := (legal_iff a).1 hl
  have status {bit : Nat} (hr : a.reg = .status) (hv : a.wdata.getLsbD bit = true) : StatusWrite bit (.access a) :=
    ⟨hal, hw, portReg_eq_status hr, hv⟩
  rcases writeReg_cases a.wdata s a.reg with he | ⟨hr, hv, he⟩ | ⟨_, _, he⟩ | ⟨hr, h2, h3, he⟩ | ⟨hr, h2, _, he⟩ |
    ⟨hr, _, h3, he⟩ | ⟨_, _, he⟩ | ⟨_, _, _, he⟩ | ⟨_, _, _, he⟩ <;> rw [he]
  · exact .inr ⟨rfl, rfl, .inl rfl, .inl ⟨rfl, rfl⟩⟩
  · exact .inl ⟨⟨hal, hw, portReg_eq_ctrl hr, hv⟩, rfl⟩
  · exact .inr ⟨rfl, rfl, .inl rfl, .inl ⟨rfl, rfl⟩⟩
  · exact .inr ⟨rfl, rfl, .inr ⟨rfl, status hr h3⟩, .inr ⟨rfl, rfl, status hr h2⟩⟩
  · exact .inr ⟨rfl, rfl, .inl rfl, .inr ⟨rfl, rfl, status hr h2⟩⟩
  · exact .inr ⟨rfl, rfl, .inr ⟨rfl, status hr h3⟩, .inl ⟨rfl, rfl⟩⟩
  · exact .inr ⟨rfl, rfl, .inl rfl, .inl ⟨rfl, rfl⟩⟩
  · exact .inr ⟨rfl, rfl, .inl rfl, .inl ⟨rfl, rfl⟩⟩
  · exact .inr ⟨rfl, rfl, .inl rfl, .inl ⟨rfl, rfl⟩⟩

/-! ## The step -/

/-- Everything a step can do to the records: the engine's turn, a reset, or an access that keeps them. -/
theorem step_next_cases {s t : State} (h : step s = .next t) :
    (∃ rest, engineStep (s.withAgenda rest) = .next t) ∨
    (∃ e rest, s.agenda = e :: rest ∧ IsReset e ∧ ResetFrom s t) ∨
    ∃ a rest, s.agenda = .access a :: rest ∧ AccessKeepsRecords a s t := by
  rcases step_cases s with ⟨_, hx⟩ | ⟨rest, _, hx⟩ | ⟨rest, ha, hx⟩ | ⟨a, rest, _, _, _, hx⟩ | ⟨a, rest, ha, _, hx⟩
  · exact .inl ⟨s.agenda, hx.symm.trans h⟩
  · exact .inl ⟨rest, hx.symm.trans h⟩
  · cases hx.symm.trans h
    exact .inr (.inl ⟨_, rest, ha, trivial, resetFrom_resetEngine s⟩)
  · exact .inl ⟨s.agenda, hx.symm.trans h⟩
  · cases hx.symm.trans h
    rcases completeAccess_records a (s.withAgenda rest) with ⟨hr, he⟩ | hk
    · rw [he]
      exact .inr (.inl ⟨_, rest, ha, hr, resetFrom_resetEngine s⟩)
    · exact .inr (.inr ⟨a, rest, ha, hk⟩)

end Sys2Proof.Machine
end

section
/-! The statements about CMD, STATUS and CTRL: what the host reads and what its writes do (10_state.md R32, R33, R37 to
R40). -/

namespace Sys2Proof.Machine

open Sys2Proof.Spec

/-! ## STATUS -/

theorem statusWord_eq_ofNat (s : State) : s.statusWord = BitVec.ofNat 32
    (s.busyBit.toNat + s.cfg.valid.toNat * 2 + s.err.toNat * 4 + s.done.toNat * 8 + s.errCode.code.toNat * 2 ^ 8) := by
  apply BitVec.eq_of_toNat_eq
  have hb := Bool.toNat_le s.busyBit
  have hv := Bool.toNat_le s.cfg.valid
  have he := Bool.toNat_le s.err
  have hd := Bool.toNat_le s.done
  have hc := s.errCode.code.isLt
  simp only [State.statusWord, toNat_append_add, BitVec.toNat_ofBool, BitVec.toNat_ofNat]
  omega

/-- A STATUS write clears ERR and ERRCODE by bit 2 and DONE by bit 3. -/
theorem writeStatus_eq (v : Word) (s : State) :
    s.writeStatus v = { s with
      err := s.err && !v.getLsbD 2
      errCode := if v.getLsbD 2 then .noError else s.errCode
      done := s.done && !v.getLsbD 3 } := by
  unfold State.writeStatus
  cases v.getLsbD 2 <;> cases v.getLsbD 3 <;> simp [State.clearError, State.clearDone]

theorem statusWord_of_resetFrom {s t : State} (h : ResetFrom s t) : t.statusWord = 0 := by
  obtain ⟨-, -, hv, -, -, -, -, -, hb, he, hc, hd, -⟩ := h
  rw [State.statusWord, State.busyBit, hb, hv, he, hc, hd]
  decide

/-- Settles O22: a STATUS access is never held, and its word and its write act on the fields of R33. -/
theorem statusRegisterFields : Obligations.StatusRegisterFields := by
  have answerable (s : State) : Answerable s 0x008 := answerable_low s (by decide) (by decide)
  refine ⟨fun s => readsAs_of_answerable (answerable s) (statusWord_eq_ofNat s), fun s v rest ha => ?_,
    fun s => ⟨Option.isSome_iff_ne_none, fun ⟨_, hrec, _⟩ he => ?_⟩,
    fun s t h => readsAs_of_answerable (answerable t) (statusWord_of_resetFrom h)⟩
  · rw [step_memWrite (answerable s) ha, show portReg 0x008 = .status from rfl, State.writeReg, writeStatus_eq]
    rfl
  · by_contra hc
    exact Bool.false_ne_true (he.symm.trans (hrec.2 hc))

/-! ## CTRL -/

theorem ctrlWord_eq_ofNat (s : State) : s.ctrlWord = BitVec.ofNat 32 (s.errIe.toNat * 2 + s.doneIe.toNat * 4) := by
  apply BitVec.eq_of_toNat_eq
  have he := Bool.toNat_le s.errIe
  have hd := Bool.toNat_le s.doneIe
  simp only [State.ctrlWord, toNat_append_add, BitVec.toNat_ofBool, BitVec.toNat_ofNat]
  omega

theorem ctrlWord_of_resetFrom {s t : State} (h : ResetFrom s t) : t.ctrlWord = 0 := by
  obtain ⟨-, -, -, -, -, -, he, hd, -⟩ := h
  rw [State.ctrlWord, he, hd]
  decide

/-- Settles O23: a CTRL access is never held; its write is a soft reset or stores the enables, which gate irq. -/
theorem ctrlRegisterFields : Obligations.CtrlRegisterFields := by
  have answerable (s : State) : Answerable s 0x004 := answerable_low s (by decide) (by decide)
  refine ⟨fun s => readsAs_of_answerable (answerable s) (ctrlWord_eq_ofNat s), fun s v rest ha hv => ?_,
    fun s v rest ha hv => ⟨_, step_softReset ha hv, rfl, rfl, resetFrom_resetEngine s⟩,
    fun s t h => readsAs_of_answerable (answerable t) (ctrlWord_of_resetFrom h),
    fun s => ⟨fun he hi => ?_, fun hd hi => ?_, fun hei hdi => ?_⟩⟩
  · rw [step_memWrite (answerable s) ha, show portReg 0x004 = .ctrl from rfl, State.writeReg, State.writeCtrl, hv]
    rfl
  · rw [State.irq, he, hi]
    rfl
  · rw [State.irq, hd, hi, Bool.and_true, Bool.or_true]
  · rw [State.irq, hei, hdi, Bool.and_false, Bool.and_false, Bool.or_false]

/-! ## CMD and the records -/

theorem engineStep_of_decode {s : State} {w : Word} {i : Instr} (hb : s.busy = some w) (hd : decode w = .ok i) :
    engineStep s = exec i s := by
  simp only [engineStep, hb, hd]

theorem engineFails_of_decode {w : Word} {e : ErrCode} (hd : decode w = .error e) (s : State) : EngineFails w e s :=
  fun hb => ⟨s.raiseError w e, by simp only [engineStep, hb, hd], raiseError_endsInError w e s⟩

/-- Settles O10: the CMD write is held while busy; answered, it offers its word to the engine. -/
theorem cmdWriteOffersTheCommand : Obligations.CmdWriteOffersTheCommand := by
  intro s w rest ha
  have answered_write (hb : s.busy = none) :
      step s = .next (((s.withAgenda rest).offerCommand w).respond ⟨none, false⟩) :=
    step_memWrite (answerable_of_idle hb (by decide) (by decide)) ha
  refine ⟨fun hb => step_of_busy_held ha hb (held_access (by decide) (by decide)), fun hb he => ?_, fun hb he => ?_⟩
  · rw [answered_write hb, State.offerCommand, withAgenda_err, if_pos he]
    rfl
  · refine ⟨{ answered s rest none false with busy := some w }, ?_, rfl, rfl, fun i hd => engineStep_of_decode rfl hd,
      fun e hd => engineFails_of_decode hd _⟩
    rw [answered_write hb, State.offerCommand, withAgenda_err, he]
    rfl

/-- Settles O12: of everything a step can do only a completion sets DONE, and only a reset or STATUS bit 3 clears it. -/
theorem doneIsSetOnlyByCompletion : Obligations.DoneIsSetOnlyByCompletion := by
  refine ⟨fun s t h h0 h1 => ?_, fun s t h h1 h0 => ?_, fun s t i h _ he => ?_, fun s t i h he he' => ?_⟩
  · rcases step_next_cases h with ⟨rest, hx⟩ | ⟨e, rest, -, -, hr⟩ | ⟨a, rest, -, -, -, hd | ⟨hd, -⟩, -⟩
    · rcases engineStep_next_cases hx with ⟨-, rfl⟩ | ⟨w, e, -, -, hw⟩ | ⟨w, i, hb, hd, hw⟩
      · cases h0.symm.trans h1
      · obtain ⟨-, -, hdone, -⟩ := endsInError_records hw
        cases h0.symm.trans (hdone.symm.trans h1)
      · obtain ⟨-, hlast, hbusy, herr, -⟩ := hw
        exact ⟨w, i, hb, hd, hlast, hbusy, herr⟩
    · obtain ⟨-, -, hdone, -⟩ := resetFrom_records hr
      cases hdone.symm.trans h1
    · cases h0.symm.trans (hd.symm.trans h1)
    · cases hd.symm.trans h1
  · rcases step_next_cases h with ⟨rest, hx⟩ | ⟨e, rest, ha, he, -⟩ | ⟨a, rest, ha, -, -, hd | ⟨-, hs⟩, -⟩
    · rcases engineStep_next_cases hx with ⟨-, rfl⟩ | ⟨w, e, -, -, hw⟩ | ⟨w, i, -, -, hw⟩
      · cases h0.symm.trans h1
      · obtain ⟨-, -, hdone, -⟩ := endsInError_records hw
        cases h0.symm.trans (hdone.trans h1)
      · obtain ⟨-, -, hdone, -⟩ := completes_records hw
        cases h0.symm.trans hdone
    · exact ⟨e, rest, ha, .inl he⟩
    · cases h0.symm.trans (hd.trans h1)
    · exact ⟨_, rest, ha, .inr hs⟩
  · rcases exec_next_cases h with ⟨e, -, hw⟩ | hw
    · obtain ⟨herr, -⟩ := endsInError_records hw
      cases he.symm.trans herr
    · obtain ⟨-, -, hdone, -⟩ := completes_records hw
      exact hdone
  · rcases exec_next_cases h with ⟨e, -, hw⟩ | hw
    · obtain ⟨-, -, hdone, -⟩ := endsInError_records hw
      exact hdone
    · obtain ⟨herr, -⟩ := completes_records hw
      cases he.symm.trans (herr.symm.trans he')

/-- Settles O25: reads and holds of CMD and ERRCMD, and of everything a command or a step can do only a completion
changes LASTCMD, only an error ERRCMD, a reset both. -/
theorem cmdAndErrcmdReadTheRecords : Obligations.CmdAndErrcmdReadTheRecords := by
  refine ⟨fun s hb => ?_, fun s rest hb ha => ?_, fun s t i h he => ?_, fun s t h hne => ?_, fun s t h hne => ?_,
    fun s t e rest ha he h => ?_⟩
  · exact ⟨readsAs_of_idle hb rfl, readsAs_of_idle hb rfl,
      fun v rest ha => step_memWrite_readOnly (answerable_of_idle hb (by decide) (by decide)) rfl ha⟩
  · rcases ha with ha | ha <;> exact step_of_busy_held ha hb (held_access (by decide) (by decide))
  · rcases exec_next_cases h with ⟨e, -, hw⟩ | hw
    · obtain ⟨herr, hcmd, -, hlast⟩ := endsInError_records hw
      exact ⟨fun h0 => (by cases h0.symm.trans herr), fun _ => ⟨hcmd, hlast⟩⟩
    · obtain ⟨herr, hcmd, -, hlast⟩ := completes_records hw
      exact ⟨fun _ => ⟨hlast, hcmd⟩, fun h1 => (by cases he.symm.trans (herr.symm.trans h1))⟩
  · rcases step_next_cases h with ⟨rest, hx⟩ | ⟨e, rest, ha, he, hr⟩ | ⟨a, rest, -, hlast, -⟩
    · rcases engineStep_next_cases hx with ⟨-, rfl⟩ | ⟨w, e, -, -, hw⟩ | ⟨w, i, hb, -, hw⟩
      · exact absurd rfl hne
      · obtain ⟨-, -, -, hlast⟩ := endsInError_records hw
        exact absurd hlast hne
      · obtain ⟨-, -, hdone, hlast⟩ := completes_records hw
        exact .inl ⟨hlast ▸ hb, hdone⟩
    · obtain ⟨-, -, -, hlast⟩ := resetFrom_records hr
      exact .inr ⟨hlast, e, rest, ha, he⟩
    · exact absurd hlast hne
  · rcases step_next_cases h with ⟨rest, hx⟩ | ⟨e, rest, ha, he, hr⟩ | ⟨a, rest, -, -, hcmd, -⟩
    · rcases engineStep_next_cases hx with ⟨-, rfl⟩ | ⟨w, e, hb, -, hw⟩ | ⟨w, i, -, -, hw⟩
      · exact absurd rfl hne
      · obtain ⟨herr, hcmd, -⟩ := endsInError_records hw
        exact .inl ⟨hcmd ▸ hb, herr⟩
      · obtain ⟨-, hcmd, -⟩ := completes_records hw
        exact absurd hcmd hne
    · obtain ⟨-, hcmd, -, -⟩ := resetFrom_records hr
      exact .inr ⟨hcmd, e, rest, ha, he⟩
    · exact absurd hcmd hne
  · obtain ⟨u, hu, hr⟩ := step_of_isReset ha he
    cases hu.symm.trans h
    obtain ⟨-, hcmd, -, hlast⟩ := resetFrom_records hr
    exact ⟨hlast, hcmd⟩

end Sys2Proof.Machine
end

section
/-! The introspection registers: ID, CFG_INFO, CFG_TAU, CRATE, CFG_BASE and CFG_MAXEXP (10_state.md R31, R41 to R45). -/

namespace Sys2Proof.Machine

open Sys2Proof.Spec

/-! ## Their words -/

theorem extractLsb'_low (v : BitVec 64) : v.extractLsb' (32 * 0) 32 = BitVec.ofNat 32 (v.toNat % 2 ^ 32) := by
  apply BitVec.eq_of_toNat_eq
  simp [BitVec.extractLsb'_toNat]

theorem extractLsb'_high (v : BitVec 64) : v.extractLsb' (32 * 1) 32 = BitVec.ofNat 32 (v.toNat / 2 ^ 32) := by
  apply BitVec.eq_of_toNat_eq
  simp [BitVec.extractLsb'_toNat, Nat.shiftRight_eq_div_pow]

theorem extractLsb'_of_eq_zero {v : BitVec 64} (h : v = 0) (j : Nat) : v.extractLsb' (32 * j) 32 = 0 := by
  rw [h]
  exact BitVec.extractLsb'_zero

theorem cfgInfoWord_of_valid {s : State} (h : s.cfg.valid = true) : s.cfgInfoWord = BitVec.ofNat 32
    (s.cfg.wsel.width.bits * s.channels + s.cfg.wsel.width.bits * 2 ^ 8 + s.channels * 2 ^ 16
      + wselNumber (some s.cfg.wsel) * 2 ^ 20) := by
  rw [State.cfgInfoWord, if_pos h, State.channels]
  cases s.cfg.wsel <;> decide

theorem cfgInfoWord_of_not_valid {s : State} (h : s.cfg.valid = false) : s.cfgInfoWord = 0 := by
  rw [State.cfgInfoWord, h, if_neg Bool.false_ne_true]

theorem crate_of_not_valid {s : State} (h : s.cfg.valid = false) : s.crate = 0 := by
  rw [State.crate, h, if_neg Bool.false_ne_true]

theorem readsAs_cfgBase {s : State} {c j : Nat} {w : Word} (hb : s.busy = none) (hc : c < 4) (hj : j < 4)
    (hw : valWord (s.base c) j = w) : ReadsAs s (0x300 + 16 * c + 4 * j) w :=
  readsAs_of_idle hb (by rw [portReg_cfgBase hc hj]; exact hw) (by omega) (by omega)

theorem readsAs_cfgMaxExp {s : State} {c j : Nat} {w : Word} (hb : s.busy = none) (hc : c < 4) (hj : j < 4)
    (hw : valWord (s.maxExp c) j = w) : ReadsAs s (0x340 + 16 * c + 4 * j) w :=
  readsAs_of_idle hb (by rw [portReg_cfgMaxExp hc hj]; exact hw) (by omega) (by omega)

/-! ## The invariant's configuration -/

/-- While CFG_VALID = 0 the configuration state is the reset one (10_state.md R30). -/
theorem cfg_eq_reset_of_inv {s : State} (hi : Inv s) (hv : s.cfg.valid = false) : s.cfg = Configuration.reset := by
  obtain ⟨⟨h1, -⟩ | h, -⟩ := hi
  · cases h1.symm.trans hv
  · exact h

theorem configured_of_inv {s : State} (hi : Inv s) (hv : s.cfg.valid = true) : Configured s := by
  obtain ⟨h | h, -⟩ := hi
  · exact h
  · rw [h] at hv
    cases hv

theorem tau_of_inv {s : State} (hi : Inv s) (hv : s.cfg.valid = false) : s.cfg.tau = 0 := by
  rw [cfg_eq_reset_of_inv hi hv]
  rfl

/-- A channel from K on has base and max_exp 0, configured or not (R44, R45). -/
theorem channelUnused_of_inv {s : State} (hi : Inv s) {c : Nat} (hc : c < 4) (hk : s.channels ≤ c) :
    ChannelUnused s c := by
  obtain ⟨⟨-, -, -, hu⟩ | h, -⟩ := hi
  · exact hu c hc hk
  · have hr : s.cfg = s.resetEngine.cfg := h
    unfold ChannelUnused State.base State.maxExp
    rw [hr]
    exact ⟨resetEngine_base s c, resetEngine_maxExp s c⟩

theorem maxExp_of_inv {s : State} (hi : Inv s) (hv : s.cfg.valid = true) {c : Nat} (hc : c < s.channels) :
    (s.maxExp c).toNat = (s.base c).toNat ^ s.cfg.tau.toNat % s.modulus := by
  obtain ⟨-, -, hch, -⟩ := configured_of_inv hi hv
  obtain ⟨-, -, -, hm, -⟩ := hch c hc
  exact hm

/-- Settles O24: each register's word as its read shows it, its channels beyond K by the invariant, its writes ignored. -/
theorem introspectionRegistersShowTheConfiguration : Obligations.IntrospectionRegistersShowTheConfiguration := by
  refine ⟨fun s => ?_, fun s hb => ?_, fun s v rest off hb h4 hoff ha => ?_⟩
  · have hid : Answerable s 0x000 := answerable_low s (by decide) (by decide)
    exact ⟨readsAs_of_answerable hid rfl, fun v rest ha => step_memWrite_readOnly hid rfl ha⟩
  · refine ⟨fun hv => readsAs_of_idle hb (cfgInfoWord_of_valid hv),
      fun hv => readsAs_of_idle hb (cfgInfoWord_of_not_valid hv),
      readsAs_of_idle hb (extractLsb'_low _), readsAs_of_idle hb (extractLsb'_high _), fun hi hv => ?_,
      readsAs_of_idle hb (extractLsb'_low _), readsAs_of_idle hb (extractLsb'_high _), fun hv => ?_,
      fun c hc j hj => ?_⟩
    · have h0 := tau_of_inv hi hv
      exact ⟨readsAs_of_idle hb (extractLsb'_of_eq_zero h0 0), readsAs_of_idle hb (extractLsb'_of_eq_zero h0 1)⟩
    · have h0 := crate_of_not_valid hv
      exact ⟨readsAs_of_idle hb (extractLsb'_of_eq_zero h0 0), readsAs_of_idle hb (extractLsb'_of_eq_zero h0 1)⟩
    · refine ⟨readsAs_cfgBase hb hc hj (valWord_eq_ofNat _ _), readsAs_cfgMaxExp hb hc hj (valWord_eq_ofNat _ _),
        fun hi hk => ?_, fun hi hv hk => maxExp_of_inv hi hv hk⟩
      obtain ⟨hb0, hm0⟩ := channelUnused_of_inv hi hc hk
      exact ⟨readsAs_cfgBase hb hc hj (by rw [hb0, valWord_zero]),
        readsAs_cfgMaxExp hb hc hj (by rw [hm0, valWord_zero])⟩
  · refine step_memWrite_readOnly (answerable_of_idle hb (by omega) h4) ?_ ha
    simp only [readOnlyOffset, Bool.or_eq_true, Bool.and_eq_true, beq_iff_eq, decide_eq_true_eq]
    omega

end Sys2Proof.Machine
end

section
/-! The windows of X and FP (10_state.md R46): one argument for a 128-bit register of the window, used for each X[i] and
each FP[c], and the pseudo-operations that move whole registers (30_encoding.md R118). -/

namespace Sys2Proof.Machine

open Sys2Proof.Spec

/-! ## The answer of one access -/

/-- An access that is not held gives the answer it leaves with the port. -/
theorem answerOfStep_access {s t : State} {a : Access} {rest : List Event} {r : Response}
    (ha : s.agenda = .access a :: rest) (hh : (s.busyBit && a.held) = false) (hr : t.response = some r) :
    answerOfStep s t = [r] := by
  simp only [answerOfStep, ha, hh, hr]
  rfl

/-! ## A register of the window -/

theorem xKeptBut_setX (s : State) (i : Nat) (v : Val) : XKeptBut [i] s (s.setX i v) :=
  fun _ _ hn => getX_setX_ne s v fun e => hn (List.mem_singleton.2 e.symm)

/-- FP[c] <- v, as the host's write of one of its words does. -/
def State.setFp (c : Nat) (v : Val) (s : State) : State := s.setFps (s.fp.setIfInBounds c v)

@[simp] theorem getFp_setFp_same (s : State) {c : Nat} (v : Val) (h : c < 4) : (s.setFp c v).getFp c = v := by
  simp [State.setFp, State.getFp, h]

theorem getFp_setFp_ne (s : State) {c d : Nat} (v : Val) (h : c ≠ d) : (s.setFp c v).getFp d = s.getFp d := by
  simp [State.setFp, State.getFp, h]

/-- The four words at an offset are those of a 128-bit register, which `get` reads and `put` writes. -/
structure IsWindow (base : Nat) (get : State → Val) (put : Val → State → State) : Prop where
  low : 0x100 ≤ base
  high : base < 0x240
  aligned : base % 16 = 0
  readReg : ∀ (s : State) (j : Nat), j < 4 → s.readReg (portReg (base + 4 * j)) = valWord (get s) j
  writeReg : ∀ (s : State) (j : Nat) (w : Word), j < 4 →
    s.writeReg w (portReg (base + 4 * j)) = put (setValWord (get s) j w) s
  get_put : ∀ (s : State) (v : Val), get (put v s) = v
  put_put : ∀ (s : State) (u v : Val), put v (put u s) = put v s
  put_busy : ∀ (s : State) (v : Val), (put v s).busy = s.busy
  get_port : ∀ (s : State) (events : List Event) (r : Option Response),
    get { s with agenda := events, response := r } = get s
  put_port : ∀ (s : State) (v : Val) (events : List Event) (r : Option Response),
    put v { s with agenda := events, response := r } = { put v s with agenda := events, response := r }

theorem isWindow_x {i : Nat} (h : i < 16) : IsWindow (0x100 + 16 * i) (fun s => s.getX i) (State.setX i) where
  low := by omega
  high := by omega
  aligned := by omega
  readReg s j hj := by rw [portReg_x h hj]; rfl
  writeReg s j w hj := by rw [portReg_x h hj]; rfl
  get_put s v := getX_setX_same s v h
  put_put s u v := by simp [State.setX]
  put_busy _ _ := rfl
  get_port _ _ _ := rfl
  put_port _ _ _ _ := rfl

theorem isWindow_fp {c : Nat} (h : c < 4) : IsWindow (0x200 + 16 * c) (fun s => s.getFp c) (State.setFp c) where
  low := by omega
  high := by omega
  aligned := by omega
  readReg s j hj := by rw [portReg_fp h hj]; rfl
  writeReg s j w hj := by rw [portReg_fp h hj]; rfl
  get_put s v := getFp_setFp_same s v h
  put_put s u v := by simp [State.setFp, State.setFps]
  put_busy _ _ := rfl
  get_port _ _ _ := rfl
  put_port _ _ _ _ := rfl

namespace IsWindow

variable {base : Nat} {get : State → Val} {put : Val → State → State}

theorem answerable (h : IsWindow base get put) {s : State} (hb : s.busy = none) {j : Nat} (hj : j < 4) :
    Answerable s (base + 4 * j) := by
  have := h.high
  have := h.aligned
  exact answerable_of_idle hb (by omega) (by omega)

/-! ## One word -/

theorem readsAs (h : IsWindow base get put) {s : State} (hb : s.busy = none) {j : Nat} (hj : j < 4) :
    ReadsAs s (base + 4 * j) (BitVec.ofNat 32 ((get s).toNat / 2 ^ (32 * j) % 2 ^ 32)) :=
  readsAs_of_answerable (h.answerable hb hj) ((h.readReg s j hj).trans (valWord_eq_ofNat _ _))

theorem step_write (h : IsWindow base get put) {s : State} {j : Nat} {w : Word} {rest : List Event} (hb : s.busy = none)
    (hj : j < 4) (ha : s.agenda = memWrite (base + 4 * j) w :: rest) :
    step s = .next (answered (put (setValWord (get s) j w) s) rest none false) := by
  rw [step_memWrite (h.answerable hb hj) ha, h.writeReg _ _ _ hj]
  have hg : get (s.withAgenda rest) = get s := h.get_port s rest s.response
  have hp (v : Val) : put v (s.withAgenda rest) = { put v s with agenda := rest, response := s.response } :=
    h.put_port s v rest s.response
  rw [hg, hp]
  rfl

/-- A write of word j, as numbers: that word is the new one, the other three are the old ones. -/
theorem written_words (h : IsWindow base get put) (s : State) (rest : List Event) {j : Nat} (hj : j < 4) (w : Word) :
    let t := answered (put (setValWord (get s) j w) s) rest none false
    (get t).toNat / 2 ^ (32 * j) % 2 ^ 32 = w.toNat ∧
    ∀ k < 4, k ≠ j → (get t).toNat / 2 ^ (32 * k) % 2 ^ 32 = (get s).toNat / 2 ^ (32 * k) % 2 ^ 32 := by
  intro t
  have ht : get t = setValWord (get s) j w := (h.get_port ..).trans (h.get_put ..)
  rw [ht]
  refine ⟨by rw [← valWord_toNat, valWord_setValWord_same _ hj], fun k hk hkj => ?_⟩
  rw [← valWord_toNat, ← valWord_toNat, valWord_setValWord_ne _ hk hkj]

/-! ## The whole register, written -/

/-- A further word, written into a register already written. -/
theorem step_write_again (h : IsWindow base get put) {s : State} (u : Val) {j : Nat} (w : Word) (rest : List Event)
    (data : Option Word) (b : Bool) (hb : s.busy = none) (hj : j < 4) :
    step (answered (put u s) (memWrite (base + 4 * j) w :: rest) data b)
      = .next (answered (put (setValWord u j w) s) rest none false) := by
  rw [h.step_write (s := answered (put u s) _ data b) ((h.put_busy s u).trans hb) hj rfl]
  unfold answered
  rw [h.get_port, h.put_port, h.get_put, h.put_put]

/-- The four writes of a whole value leave it in the register and change nothing else. -/
theorem run_writes (h : IsWindow base get put) {s : State} {v : Val} {rest : List Event} (hb : s.busy = none)
    (ha : s.agenda = (List.range 4).map (fun j => memWrite (base + 4 * j) (valWord v j)) ++ rest) :
    Host.Core.run Sys2Proof.core 4 s = .next (answered (put v s) rest none false) := by
  have again (u : Val) {j : Nat} (hj : j < 4) (w : Word) (rest : List Event) :=
    run_succ (h.step_write_again u w rest none false hb hj)
  have first := run_succ (h.step_write hb (by decide : 0 < 4) ha) 3
  refine first.trans ((again _ (by decide : 1 < 4) _ _ 2).trans ((again _ (by decide : 2 < 4) _ _ 1).trans
    ((again _ (by decide : 3 < 4) _ _ 0).trans ?_)))
  rw [setValWord_all]
  rfl

/-! ## The whole register, read -/

/-- Reads of an idle engine's register, answered one after the other. -/
theorem answers_reads (h : IsWindow base get put) (js : List Nat) {s : State} {rest : List Event} (hb : s.busy = none)
    (hjs : ∀ j ∈ js, j < 4) (ha : s.agenda = js.map (fun j => memRead (base + 4 * j)) ++ rest) :
    answers js.length s = js.map fun j => ⟨some (valWord (get s) j), false⟩ := by
  induction js generalizing s with
  | nil => rfl
  | cons j js ih =>
    have hj : j < 4 := hjs j List.mem_cons_self
    have hstep := step_memRead (h.answerable hb hj) ha
    rw [h.readReg s j hj] at hstep
    have later := ih (s := answered s (js.map _ ++ rest) (some (valWord (get s) j)) false) hb
      (fun k hk => hjs k (List.mem_cons_of_mem j hk)) rfl
    rw [show get (answered s _ _ _) = get s from h.get_port ..] at later
    rw [List.length_cons, answers_succ hstep, answerOfStep_access ha ((h.answerable hb hj).not_held _ _) rfl]
    exact congrArg _ later

/-- The four reads of an idle engine's register give its value. -/
theorem readResult_reads (h : IsWindow base get put) {s : State} {rest : List Event} (hb : s.busy = none)
    (ha : s.agenda = (List.range 4).map (fun j => memRead (base + 4 * j)) ++ rest) :
    readResult (answers 4 s) = some (get s) := by
  have hr : answers 4 s = (List.range 4).map fun j => ⟨some (valWord (get s) j), false⟩ :=
    h.answers_reads (List.range 4) hb (fun _ => List.mem_range.1) ha
  rw [hr]
  exact congrArg some (joinWords_valWord (get s))

theorem readNext_of_idle (h : IsWindow base get put) {s : State} (hb : s.busy = none) :
    readNext ((List.range 4).map fun j => memRead (base + 4 * j)) s = some (get s) := by
  rw [readNext, State.busyBit, hb]
  exact (h.readResult_reads (s := s.withAgenda (_ ++ s.agenda)) hb rfl).trans
    (congrArg some (h.get_port s _ s.response))

theorem held_read (h : IsWindow base get put) :
    (Access.mk false (BitVec.ofNat 10 (base + 4 * 0)) 2 0).held = true := by
  have hlo := h.low
  have hhi := h.high
  have h16 := h.aligned
  rw [held_access (by omega) (by omega)]
  exact heldOffset_of_window (by omega) (by omega)

/-- While a command is busy its end comes first, and the reads give the register as it leaves it (20_memory.md R70). -/
theorem readNext_of_busy (h : IsWindow base get put) {s t : State} (hb : s.busy ≠ none)
    (ht : engineStep (s.withAgenda ((List.range 4).map (fun j => memRead (base + 4 * j)) ++ s.agenda)) = .next t) :
    readNext ((List.range 4).map fun j => memRead (base + 4 * j)) s = some (get t) := by
  obtain ⟨hbt, hat⟩ := engineStep_idle ht
  have hbusy : s.busyBit = true := Option.isSome_iff_ne_none.2 hb
  have first := answers_held (s := s.withAgenda (_ ++ s.agenda)) rfl
    (Bool.and_eq_true_iff.2 ⟨hbusy, h.held_read⟩) ht 4
  rw [readNext, hbusy, Bool.toNat_true, first]
  exact h.readResult_reads hbt hat

end IsWindow

/-- Settles O26: X[i] and FP[c] are registers of the window, whose words are read, written and held alike. -/
theorem registerWindowsWriteOneWord : Obligations.RegisterWindowsWriteOneWord := by
  refine ⟨fun s a rest hb ha hal hlo hhi => ?_, fun s v rest j hb hj => ⟨fun i hi => ⟨?_, fun ha => ?_⟩,
    fun c hc => ⟨?_, fun ha => ?_⟩⟩, fun s i c hb => ⟨?_, ?_⟩, fun s t i hb ht => ?_, fun s t c hb ht => ?_,
    fun s i c v rest hb => ⟨fun ha => ?_, fun ha => ?_⟩⟩
  · exact step_of_busy_held ha hb ((held_of_aligned hal).trans (heldOffset_of_window hlo hhi))
  · exact (isWindow_x hi).readsAs hb hj
  · obtain ⟨hword, hother⟩ := (isWindow_x hi).written_words s rest hj v
    exact ⟨_, (isWindow_x hi).step_write hb hj ha, rfl, xKeptBut_setX s i _, hword, hother⟩
  · exact (isWindow_fp hc).readsAs hb hj
  · obtain ⟨hword, hother⟩ := (isWindow_fp hc).written_words s rest hj v
    exact ⟨_, (isWindow_fp hc).step_write hb hj ha, rfl, fun d _ hd => getFp_setFp_ne s _ hd.symm, hword, hother⟩
  · exact (isWindow_x i.isLt).readNext_of_idle hb
  · exact (isWindow_fp c.isLt).readNext_of_idle hb
  · exact (isWindow_x i.isLt).readNext_of_busy hb ht
  · exact (isWindow_fp c.isLt).readNext_of_busy hb ht
  · exact ⟨_, (isWindow_x i.isLt).run_writes hb ha, rfl, getX_setX_same s v i.isLt,
      xKeptBut_setX s i v⟩
  · exact ⟨_, (isWindow_fp c.isLt).run_writes hb ha, rfl, getFp_setFp_same s v c.isLt,
      fun d _ hd => getFp_setFp_ne s v hd.symm⟩

end Sys2Proof.Machine
end

section
/-! The host port's answers to single accesses: misaligned accesses, reserved offsets and read-only registers
(20_memory.md R63, R67, R68). -/

namespace Sys2Proof.Machine

open Sys2Proof.Spec

/-! ## Completed accesses -/

theorem completeAccess_of_misaligned {a : Access} (h : ¬ Aligned a) (s : State) :
    s.completeAccess a = s.respond ⟨if a.write then none else some 0, true⟩ := by
  rw [State.completeAccess, Bool.eq_false_iff.2 (mt (legal_iff a).1 h)]
  rfl

theorem completeAccess_of_read {a : Access} (h : Aligned a) (hw : a.write = false) (s : State) :
    s.completeAccess a = s.respond ⟨some (s.readReg a.reg), false⟩ := by
  rw [State.completeAccess, (legal_iff a).2 h, hw]
  rfl

theorem completeAccess_of_write {a : Access} (h : Aligned a) (hw : a.write = true) (s : State) :
    s.completeAccess a = (s.writeReg a.wdata a.reg).respond ⟨none, false⟩ := by
  rw [State.completeAccess, (legal_iff a).2 h, hw]
  rfl

/-! ## Misaligned accesses -/

/-- An access that gets a bus error never waits (R70). -/
theorem held_of_misaligned {a : Access} (h : ¬ Aligned a) : a.held = false := by
  rw [Access.held, Bool.eq_false_iff.2 (mt (legal_iff a).1 h), Bool.false_and]

/-- Settles O13: an access that is not aligned never waits, and completing it only leaves its bus error. -/
theorem misalignedAccessesGetABusError : Obligations.MisalignedAccessesGetABusError := by
  intro s a rest ha hmis
  have hal : ¬ Aligned a := fun ⟨hsize, haddr⟩ => hmis.elim (· hsize) (· haddr)
  rw [step_access ha (by rw [held_of_misaligned hal, Bool.and_false]), completeAccess_of_misaligned hal]
  rfl

/-! ## Reserved offsets -/

theorem lowPortReg_of_ge {off : Nat} (h : 0x028 ≤ off) : lowPortReg off = .reserved := by
  unfold lowPortReg
  iterate 10 rw [if_neg (by omega)]

theorem portReg_of_reservedOffset {off : Nat} (h : reservedOffset off = true) : portReg off = .reserved := by
  simp only [reservedOffset, Bool.or_eq_true, Bool.and_eq_true, decide_eq_true_eq] at h
  unfold portReg
  rcases h with (⟨hlo, hhi⟩ | ⟨hlo, hhi⟩) | ⟨hlo, -⟩
  · rw [if_pos hhi, lowPortReg_of_ge hlo]
  · rw [if_neg (by omega), if_neg (by omega), if_neg (by omega), if_pos hhi]
  · iterate 6 rw [if_neg (by omega)]

/-- Settles O14: a reserved offset names no register, so its access never waits, reads 0 and writes nothing. -/
theorem reservedOffsetsReadZeroAndIgnoreWrites : Obligations.ReservedOffsetsReadZeroAndIgnoreWrites := by
  intro s a rest ha hal hres
  have hreg : a.reg = .reserved := portReg_of_reservedOffset hres
  have hheld : a.held = false := by
    rw [Access.held, hreg]
    exact Bool.and_false _
  rw [step_access ha (by rw [hheld, Bool.and_false])]
  cases hw : a.write with
  | true =>
    rw [completeAccess_of_write hal hw, hreg]
    rfl
  | false =>
    rw [completeAccess_of_read hal hw, hreg]
    rfl

/-! ## Read-only registers -/

/-- An aligned write is a MemWrite at its offset (30_encoding.md R118). -/
theorem memWrite_of_aligned {a : Access} (h : Aligned a) (hw : a.write = true) :
    .access a = memWrite a.addr.toNat a.wdata := by
  obtain ⟨write, addr, size, wdata⟩ := a
  obtain ⟨rfl, -⟩ := h
  cases hw
  rw [memWrite, BitVec.ofNat_toNat, BitVec.setWidth_eq]

/-- Every read-only register but ID waits while busy (20_memory.md R66, R68). -/
theorem heldOffset_of_readOnly {off : Nat} (h : readOnlyOffset off = true) (h0 : off ≠ 0x000) :
    heldOffset off = true := by
  simp only [readOnlyOffset, heldOffset, Bool.or_eq_true, Bool.and_eq_true, beq_iff_eq, decide_eq_true_eq] at h ⊢
  omega

/-- Settles O15: a write of a read-only register is ignored when the engine is idle or the register is ID; else it
waits. -/
theorem writesToReadOnlyRegistersAreIgnored : Obligations.WritesToReadOnlyRegistersAreIgnored := by
  intro s a rest ha hal hw hro
  refine ⟨fun hfree => ?_, fun hb h0 => ?_⟩
  · have hat : Answerable s a.addr.toNat := ⟨a.addr.isLt, hal.2, hfree.imp_right fun h0 => by rw [h0]; rfl⟩
    exact step_memWrite_readOnly hat hro (ha.trans (by rw [memWrite_of_aligned hal hw]))
  · exact step_of_busy_held ha hb ((held_of_aligned hal).trans (heldOffset_of_readOnly hro h0))

end Sys2Proof.Machine
end

section
/-! Both resets, alone and beside waiting accesses or a completion (20_memory.md R71, 70_reset_and_hazards.md R260,
R262). -/

namespace Sys2Proof.Machine

open Sys2Proof.Spec

/-! ## What a reset leaves -/

theorem step_resetLow {s : State} {rest : List Event} (ha : s.agenda = .resetLow :: rest) :
    step s = .next (s.withAgenda rest).resetEngine := by
  simp only [step, ha, State.pinReset]

theorem step_complete {s : State} {rest : List Event} (ha : s.agenda = .complete :: rest) :
    step s = engineStep (s.withAgenda rest) := by
  simp only [step, ha]

/-- An event that resets leaves the reset state, but for the events ahead and what lies outside the engine. -/
theorem step_isReset {s : State} {e : Event} {rest : List Event} (he : IsReset e) (ha : s.agenda = e :: rest) :
    ∃ u : State, step s = .next u.resetEngine ∧ ResetFrom s u.resetEngine ∧ u.agenda = rest := by
  cases e with
  | complete => exact he.elim
  | resetLow => exact ⟨s.withAgenda rest, step_resetLow ha, resetFrom_resetEngine s, rfl⟩
  | access a =>
    obtain ⟨hal, hw, h4, hv⟩ := he
    rw [memWrite_of_aligned hal hw, h4] at ha
    exact ⟨(s.withAgenda rest).respond ⟨none, false⟩, step_softReset ha hv, resetFrom_resetEngine s, rfl⟩

/-! ## The access that waited -/

@[simp] theorem writeReg_agenda (w : Word) (s : State) (r : PortReg) : (s.writeReg w r).agenda = s.agenda := by
  rcases writeReg_cases w s r with he | ⟨_, _, he⟩ | ⟨_, _, he⟩ | ⟨_, _, _, he⟩ | ⟨_, _, _, he⟩ | ⟨_, _, _, he⟩ |
    ⟨_, _, he⟩ | ⟨_, _, _, he⟩ | ⟨_, _, _, he⟩ <;> rw [he] <;> rfl

@[simp] theorem completeAccess_agenda (a : Access) (s : State) : (s.completeAccess a).agenda = s.agenda := by
  rcases completeAccess_cases a s with ⟨_, he⟩ | ⟨_, _, he⟩ | ⟨_, _, he⟩ <;> rw [he, respond_agenda]
  exact writeReg_agenda ..

/-- A read of the reset engine answers the constant of ID or 0 (R261). -/
theorem completeAccess_resetEngine_of_read {a : Access} (hal : Aligned a) (hw : a.write = false) (s : State) :
    s.resetEngine.completeAccess a
      = s.resetEngine.respond ⟨some (if a.addr.toNat = 0x000 then 0x4B524D07 else 0), false⟩ := by
  rw [completeAccess_of_read hal hw, readReg_resetEngine, Access.reg]
  simp only [portReg_eq_id, idWord]

/-- Settles O20: a reset leaves the reset state, in which whatever event comes next finds an idle engine. -/
theorem resetAbortsTheBusyCommand : Obligations.ResetAbortsTheBusyCommand := by
  refine ⟨fun s v rest ha hv => ?_, fun s rest ha => ?_, fun s e w rest he ha => ?_, fun s e a rest he ha => ?_,
    fun s e rest he ha => ?_, fun s t e rest he ha ht => ?_⟩
  · exact ⟨_, step_softReset ha hv, resetFrom_resetEngine s, rfl, rfl⟩
  · exact ⟨_, step_resetLow ha, resetFrom_resetEngine s, rfl, rfl⟩
  · obtain ⟨u, hu, hreset, hahead⟩ := step_isReset he ha
    obtain ⟨-, -, accepts⟩ := cmdWriteOffersTheCommand u.resetEngine w rest hahead
    obtain ⟨_, hstep, rfl, -⟩ := accepts rfl rfl
    exact ⟨_, hu, hreset, hstep⟩
  · obtain ⟨u, hu, hreset, hahead⟩ := step_isReset he ha
    refine ⟨_, _, hu, hreset, step_access hahead rfl, rfl, completeAccess_agenda .., fun hal => ?_, fun hal hw => ?_,
      fun hal hw => ?_⟩
    · exact completeAccess_of_misaligned hal _
    · rw [completeAccess_of_write hal hw, respond_response]
    · exact completeAccess_resetEngine_of_read hal hw (u.withAgenda rest)
  · obtain ⟨u, hu, hreset, hahead⟩ := step_isReset he ha
    exact ⟨_, hu, hreset, step_complete hahead⟩
  · obtain ⟨-, hahead⟩ := engineStep_idle ((step_complete ha).symm.trans ht)
    obtain ⟨u, hu, hreset, hrest⟩ := step_isReset he hahead
    exact ⟨_, hu, hreset, hrest⟩

end Sys2Proof.Machine
end

section
/-! The opcode map: which words are commands, which end in ILLEGAL_FIELD and which in ILLEGAL_OPCODE (30_encoding.md R109
to R111, R116). The decoder's masks and patterns are tied to the table of fixed bits row by row. -/

namespace Sys2Proof

open Sys2Proof.Spec

/-! ## The rows of the table -/

/-- The mnemonic of a row: that of the command in the word whose free bits are all 0. -/
def Op.mnemonic (e : Bool) (op : Op) : String := (op.instr (op.pattern e)).mnemonic

/-- The decoder's row of an opcode, in the shape of the table of R111. -/
def Op.row (e : Bool) (op : Op) : String × Nat × Word × Word :=
  (op.mnemonic e, op.byte.toNat, op.mask e, op.pattern e)

theorem Op.row_mem_rows (op : Op) (e : Bool) : op.row e ∈ rows := by
  cases op <;> cases e <;> decide

theorem exists_row_of_mem_rows {r : String × Nat × Word × Word} (h : r ∈ rows) : ∃ op e, r = Op.row e op := by
  have hrows : ∀ r ∈ rows, ∃ op ∈ Op.all, ∃ e, r = Op.row e op := by decide
  obtain ⟨op, -, e, hr⟩ := hrows r h
  exact ⟨op, e, hr⟩

/-- No two rows share a mnemonic. -/
theorem mnemonics_nodup : (rows.map (·.1)).Nodup := by decide

theorem Op.mnemonic_instr (op : Op) (w : Word) : (op.instr w).mnemonic = op.mnemonic (w.getLsbD 11) := by
  cases op with
  | config =>
    have hE : ∀ e, (Op.config.pattern e).getLsbD 11 = e := by decide
    simp only [Op.mnemonic, Op.instr, hE]
    cases w.getLsbD 11 <;> rfl
  | _ => simp only [Op.mnemonic, Op.instr, Instr.mnemonic]

/-- A word that matches a row has the row's opcode, and for CONFIG the row's E bit. -/
theorem byte_of_row {w : Word} {op : Op} {e : Bool} (h : w &&& op.mask e = op.pattern e) :
    w.extractLsb' 24 8 = op.byte ∧ (w.getLsbD 11 = e ∨ op ≠ .config) := by
  refine ⟨field_of_row h 24 8 (by cases op <;> cases e <;> decide), ?_⟩
  rcases eq_or_ne op .config with rfl | hc
  · left
    rw [bit_of_mask h 11 (by cases e <;> rfl)]
    cases e <;> rfl
  · exact .inr hc

theorem decode_of_row {w : Word} {op : Op} {e : Bool} (h : w &&& op.mask e = op.pattern e) :
    decode w = .ok (op.instr w) :=
  decode_ok_of op e (byte_of_row h).1 (byte_of_row h).2 h

/-- A word matches a row exactly when it is read as a command of the row's mnemonic (R111). -/
theorem matches_row_iff (w : Word) (op : Op) (e : Bool) :
    w &&& op.mask e = op.pattern e ↔ ∃ i, decode w = .ok i ∧ i.mnemonic = op.mnemonic e := by
  constructor
  · intro h
    refine ⟨_, decode_of_row h, ?_⟩
    rw [Op.mnemonic_instr]
    rcases (byte_of_row h).2 with he | hc
    · rw [he]
    · rw [Op.mnemonic, (row_of_bit (e := e) (.inr hc)).2, Op.mnemonic]
  · rintro ⟨i, hi, hname⟩
    rcases decode_cases w with ⟨-, hd⟩ | ⟨op', -, ⟨hm, hd⟩ | ⟨-, hd⟩⟩
    · cases hd.symm.trans hi
    · cases hd.symm.trans hi
      rw [Op.mnemonic_instr] at hname
      have hrow : op'.row (w.getLsbD 11) = op.row e :=
        List.inj_on_of_nodup_map mnemonics_nodup (op'.row_mem_rows _) (op.row_mem_rows e) hname
      have hmask : op'.mask (w.getLsbD 11) = op.mask e := congrArg (·.2.2.1) hrow
      have hpattern : op'.pattern (w.getLsbD 11) = op.pattern e := congrArg (·.2.2.2) hrow
      rwa [← hmask, ← hpattern]
    · cases hd.symm.trans hi

/-! ## The assigned opcodes -/

theorem opcode_eq_toNat (w : Word) : opcode w = (w.extractLsb' 24 8).toNat := (field_toNat rfl).symm

theorem opcode_eq_iff (w : Word) (op : Op) : opcode w = op.byte.toNat ↔ w.extractLsb' 24 8 = op.byte := by
  rw [opcode_eq_toNat, BitVec.toNat_inj]

theorem Op.byte_injective : Function.Injective Op.byte := fun op op' h => by
  simpa using congrArg Op.ofByte h

theorem ofByte_eq_none_iff (b : BitVec 8) : Op.ofByte b = none ↔ b.toNat ∉ assigned := by
  rw [show assigned = Op.all.map fun op => op.byte.toNat from rfl]
  simp [Op.ofByte, BitVec.toNat_inj]

end Sys2Proof

namespace Sys2Proof.Machine

open Sys2Proof.Spec

/-! ## How the engine ends a word -/

/-- A word with an opcode that is not assigned ends in ILLEGAL_OPCODE (R110). -/
theorem engineFails_of_not_assigned {w : Word} (h : opcode w ∉ assigned) (s : State) :
    EngineFails w .illegalOpcode s := by
  rw [opcode_eq_toNat, ← ofByte_eq_none_iff] at h
  rcases decode_cases w with ⟨-, hd⟩ | ⟨op, hop, -⟩
  · exact engineFails_of_decode hd s
  · cases h.symm.trans hop

/-- A word with an assigned opcode that matches no row ends in ILLEGAL_FIELD (R111). -/
theorem engineFails_of_no_row {w : Word} (ha : opcode w ∈ assigned) (hr : ∀ r ∈ rows, w &&& r.2.2.1 ≠ r.2.2.2)
    (s : State) : EngineFails w .illegalField s := by
  rcases decode_cases w with ⟨hop, -⟩ | ⟨op, -, ⟨hm, -⟩ | ⟨-, hd⟩⟩
  · rw [ofByte_eq_none_iff, ← opcode_eq_toNat] at hop
    exact absurd ha hop
  · exact absurd hm (hr _ (op.row_mem_rows _))
  · exact engineFails_of_decode hd s

/-- The one row of an opcode other than CONFIG's is all its words have to match. -/
theorem rejectsBadFields (op : Op) (hc : op ≠ .config) :
    RejectsBadFields op.byte.toNat (op.mask false) (op.pattern false) := fun _ s hop hm =>
  engineFails_of_decode (decode_illegalField_of op false ((opcode_eq_iff _ op).1 hop) (.inr hc) hm) s

/-- A word whose command raises an error ends in that error, the word itself recorded. -/
theorem engineFails_of_raises {w : Word} {i : Instr} {e : ErrCode} {s : State} (hd : decode w = .ok i)
    (h : Raises i e s) : EngineFails w e s := by
  intro hb
  rw [engineStep_of_decode hb hd, ← encode_of_decode hd]
  exact h

theorem config_reserved_raises (rt rb : Reg) (s : State) : Raises (.config rt rb none) .badWidth s :=
  exec_raises (cs := [(true, .badWidth)]) (f := id) rfl rfl

theorem configRandom_reserved_raises (rt : Reg) (s : State) : Raises (.configRandom rt none) .badWidth s :=
  exec_raises (cs := [(true, .badWidth)]) (f := id) rfl rfl

theorem config_instr_raises {w : Word} (h : bits w 8 3 = 7) (s : State) :
    Raises (Op.config.instr w) .badWidth s := by
  have hcode : w.extractLsb' 8 3 = 7 := BitVec.eq_of_toNat_eq ((field_toNat rfl).trans h)
  have hnone : WSel.ofCode (w.extractLsb' 8 3) = none := by rw [hcode]; rfl
  rw [Op.instr, hnone]
  split
  · exact config_reserved_raises ..
  · exact configRandom_reserved_raises ..

/-! ## The statements -/

/-- Settles O4: each row of the table is the decoder's row of an opcode, and the decoder reads a word by its row. -/
theorem legalWordsAreTheRowsOfTheTable : Obligations.LegalWordsAreTheRowsOfTheTable := by
  refine ⟨fun w r hr => ?_, fun w s ha hr => engineFails_of_no_row ha hr s, fun w s hop hwsel ⟨r, hr, hm⟩ => ?_⟩
  · obtain ⟨op, e, rfl⟩ := exists_row_of_mem_rows hr
    exact matches_row_iff w op e
  · obtain ⟨op, e, rfl⟩ := exists_row_of_mem_rows hr
    have hconfig : w.extractLsb' 24 8 = Op.config.byte := (opcode_eq_iff w .config).1 hop
    obtain rfl : op = .config := Op.byte_injective ((byte_of_row hm).1.symm.trans hconfig)
    exact engineFails_of_raises (decode_of_row hm) (config_instr_raises hwsel s)

/-- Settles O5: no assigned opcode lies in the reserved ranges. -/
theorem reservedOpcodesEndInIllegalOpcode : Obligations.ReservedOpcodesEndInIllegalOpcode := by
  intro w s h
  refine engineFails_of_not_assigned (fun ha => ?_) s
  simp only [assigned, List.mem_cons, List.not_mem_nil, or_false] at ha
  omega

/-- Settles O28: NOP's row fixes every bit, and NOP runs behind no check and writes nothing. -/
theorem nopOnlyCompletes : Obligations.NopOnlyCompletes := by
  refine ⟨rejectsBadFields .nop (by decide), ⟨rfl, decode_of_row (op := .nop) (e := false) rfl⟩, fun s => ?_⟩
  obtain ⟨hx, hc⟩ := exec_completes (i := .nop) (cs := []) (f := id) (s := s) rfl rfl (Quiet.refl s)
  exact ⟨_, hx, hc, fun _ _ _ => rfl, rfl, rfl, rfl, rfl⟩

end Sys2Proof.Machine
end

section
/-! SUPPORT. The commands of Format R (30_encoding.md R102): their words as numbers, and when such a word matches the row
of its opcode. -/

namespace Sys2Proof

open Sys2Proof.Spec

/-! ## A word of Format R -/

theorem swNumber_eq (sw : Width) : swNumber sw = sw.code.toNat := by cases sw <;> rfl

/-- Format R as bits and as a number. -/
theorem formatR_eq_wordR (op : BitVec 8) (rd rs1 rs2 rs3 : Reg) (sw : Width) :
    formatR op (regBits rd) (regBits rs1) (regBits rs2) (regBits rs3) sw.code
      = wordR op.toNat rd rs1 rs2 rs3 (swNumber sw) := by
  have h := formatR_toNat op (regBits rd) (regBits rs1) (regBits rs2) (regBits rs3) sw.code
  simp only [regBits_toNat, ← swNumber_eq] at h
  rw [wordR, ← h, BitVec.ofNat_toNat, BitVec.setWidth_eq]

theorem formatR_reserved (op : BitVec 8) (rd rs1 rs2 rs3 : BitVec 4) (sw : BitVec 2) :
    (formatR op rd rs1 rs2 rs3 sw).extractLsb' 2 6 = 0#6 := by
  apply extractLsb'_ext
  intro i hi
  rw [formatR_getLsbD]
  interval_cases i <;> rfl

/-- A mask cuts a word of Format R field by field. -/
theorem formatR_and (op : BitVec 8) (rd rs1 rs2 rs3 : BitVec 4) (sw : BitVec 2) (m : Word) :
    formatR op rd rs1 rs2 rs3 sw &&& m
      = formatR (op &&& m.extractLsb' 24 8) (rd &&& m.extractLsb' 20 4) (rs1 &&& m.extractLsb' 16 4)
          (rs2 &&& m.extractLsb' 12 4) (rs3 &&& m.extractLsb' 8 4) (sw &&& m.extractLsb' 0 2) := by
  symm
  apply formatR_of_fields <;> rw [BitVec.extractLsb'_and]
  · rw [formatR_byte]
  · rw [formatR_rd]
  · rw [formatR_rs1]
  · rw [formatR_rs2]
  · rw [formatR_rs3]
  · rw [formatR_reserved, BitVec.zero_and]
  · rw [formatR_sw]

/-- With all other fields 0, a word of Format R is its opcode's pattern. -/
theorem formatR_opcode_only (op : Op) : formatR op.byte 0 0 0 0 0 = op.pattern false := by
  cases op <;> rfl

theorem byte_and_mask (op : Op) : op.byte &&& (op.mask false).extractLsb' 24 8 = op.byte := by
  cases op <;> rfl

/-- A word of Format R matches its opcode's row if the mask leaves 0 of every field (R111). -/
theorem formatR_matches {op : Op} {rd rs1 rs2 rs3 : BitVec 4} {sw : BitVec 2}
    (hrd : rd &&& (op.mask false).extractLsb' 20 4 = 0) (hrs1 : rs1 &&& (op.mask false).extractLsb' 16 4 = 0)
    (hrs2 : rs2 &&& (op.mask false).extractLsb' 12 4 = 0) (hrs3 : rs3 &&& (op.mask false).extractLsb' 8 4 = 0)
    (hsw : sw &&& (op.mask false).extractLsb' 0 2 = 0) :
    formatR op.byte rd rs1 rs2 rs3 sw &&& op.mask false = op.pattern false := by
  rw [formatR_and, byte_and_mask, hrd, hrs1, hrs2, hrs3, hsw, formatR_opcode_only]

/-- The four bits of an even register pass the mask of a pair field (R112). -/
theorem regBits_and_one {r : Reg} (h : r.val % 2 = 0) : regBits r &&& 1#4 = 0#4 := by
  revert r; decide

/-! ## Its command -/

theorem hasWord_of_decode {i : Instr} {w : Word} (h : decode w = .ok i) : HasWord i w := ⟨encode_of_decode h, h⟩

/-- A word of Format R that matches its opcode's row is the word of the command its fields make. -/
theorem hasWord_wordR {op : Op} {rd rs1 rs2 rs3 : Reg} {sw : Width} {i : Instr}
    (hrow : formatR op.byte (regBits rd) (regBits rs1) (regBits rs2) (regBits rs3) sw.code &&& op.mask false
      = op.pattern false)
    (hi : op.instr (formatR op.byte (regBits rd) (regBits rs1) (regBits rs2) (regBits rs3) sw.code) = i) :
    HasWord i (wordR op.byte.toNat rd rs1 rs2 rs3 (swNumber sw)) := by
  rw [← formatR_eq_wordR]
  exact hasWord_of_decode (hi ▸ decode_of_row hrow)

section fields

variable (op : BitVec 8) (rd rs1 rs2 rs3 : Reg) (sw : Width)

@[simp] theorem regField_rd_formatR :
    regField 20 (formatR op (regBits rd) (regBits rs1) (regBits rs2) (regBits rs3) sw.code) = rd :=
  regField_of_bits (formatR_rd ..)

@[simp] theorem regField_rs1_formatR :
    regField 16 (formatR op (regBits rd) (regBits rs1) (regBits rs2) (regBits rs3) sw.code) = rs1 :=
  regField_of_bits (formatR_rs1 ..)

@[simp] theorem regField_rs2_formatR :
    regField 12 (formatR op (regBits rd) (regBits rs1) (regBits rs2) (regBits rs3) sw.code) = rs2 :=
  regField_of_bits (formatR_rs2 ..)

@[simp] theorem regField_rs3_formatR :
    regField 8 (formatR op (regBits rd) (regBits rs1) (regBits rs2) (regBits rs3) sw.code) = rs3 :=
  regField_of_bits (formatR_rs3 ..)

end fields

/-! A field is free (the mask leaves nothing of it), names a pair, or is not used and 0. -/

theorem reduce_hasWord (rd : Reg) {rs1 : Reg} (sw : Width) (h : rs1.val % 2 = 0) :
    HasWord (.reduce rd rs1 sw) (wordR 0x01 rd rs1 0 0 (swNumber sw)) :=
  hasWord_wordR (op := .reduce) (rs2 := 0) (rs3 := 0)
    (formatR_matches BitVec.and_zero (regBits_and_one h) BitVec.zero_and BitVec.zero_and BitVec.and_zero)
    (by simp [Op.instr, formatR_sw])

theorem muladd_hasWord {rd : Reg} (rs1 rs2 rs3 : Reg) (sw : Width) (h : rd.val % 2 = 0) :
    HasWord (.muladd rd rs1 rs2 rs3 sw) (wordR 0x02 rd rs1 rs2 rs3 (swNumber sw)) :=
  hasWord_wordR (op := .muladd)
    (formatR_matches (regBits_and_one h) BitVec.and_zero BitVec.and_zero BitVec.and_zero BitVec.and_zero)
    (by simp [Op.instr, formatR_sw])

theorem muladdr_hasWord (rd rs1 rs2 rs3 : Reg) (sw : Width) :
    HasWord (.muladdr rd rs1 rs2 rs3 sw) (wordR 0x03 rd rs1 rs2 rs3 (swNumber sw)) :=
  hasWord_wordR (op := .muladdr)
    (formatR_matches BitVec.and_zero BitVec.and_zero BitVec.and_zero BitVec.and_zero BitVec.and_zero)
    (by simp [Op.instr, formatR_sw])

theorem pow_hasWord (rd rs1 rs2 : Reg) (sw : Width) :
    HasWord (.pow rd rs1 rs2 sw) (wordR 0x04 rd rs1 rs2 0 (swNumber sw)) :=
  hasWord_wordR (op := .pow) (rs3 := 0)
    (formatR_matches BitVec.and_zero BitVec.and_zero BitVec.and_zero BitVec.zero_and BitVec.and_zero)
    (by simp [Op.instr, formatR_sw])

theorem inv_hasWord (rd rs1 : Reg) (sw : Width) :
    HasWord (.inv rd rs1 sw) (wordR 0x05 rd rs1 0 0 (swNumber sw)) :=
  hasWord_wordR (op := .inv) (rs2 := 0) (rs3 := 0)
    (formatR_matches BitVec.and_zero BitVec.and_zero BitVec.zero_and BitVec.zero_and BitVec.and_zero)
    (by simp [Op.instr, formatR_sw])

end Sys2Proof
end

section
/-! The arithmetic unit: REDUCE, MULADD, MULADDR, POW and INV (40_arith.md R141 to R152). Each runs behind its checks and
writes one register or one pair, so one lemma says how all of them complete. -/

namespace Sys2Proof.Machine

open Sys2Proof.Spec

/-! ## How they complete -/

/-- From s to t the command i completed with value registers `written` written and everything else kept. -/
def CompletesWriting (written : List Nat) (i : Instr) (s t : State) : Prop :=
  Completes (encode i) s t ∧ XKeptBut written s t ∧ FpKept s t ∧ CfgKept s t ∧ EntropyKept s t

/-- A command that writes one register, none of its checks failing. -/
theorem exec_setX {i : Instr} {cs : List Check} {rd : Reg} {v : Val} {s : State}
    (hx : exec i s = runCommand (encode i) cs (State.setX rd v) s) (he : firstError cs = none) :
    ∃ t, exec i s = .next t ∧ CompletesWriting [rd.val] i s t ∧ xNat t rd = v.toNat := by
  obtain ⟨hnext, hc⟩ := exec_completes hx he (quiet_setX ..)
  refine ⟨_, hnext, ⟨hc, xKeptBut_setX s rd v, rfl, rfl, rfl, rfl⟩, ?_⟩
  rw [xNat, complete_getX, getX_setX_same s v rd.isLt]

theorem xKeptBut_setPair (s : State) (n : Nat) (v : BitVec 256) : XKeptBut [n, n + 1] s (s.setPair n v) := by
  intro m _ hm
  simp only [List.mem_cons, List.not_mem_nil, or_false, not_or] at hm
  exact getX_setPair_ne s v (Ne.symm hm.1) (Ne.symm hm.2)

theorem pairNat_eq (s : State) (n : Nat) : pairNat s n = (s.getPair n).toNat := (getPair_toNat s n).symm

/-- A command that writes one pair, none of its checks failing. -/
theorem exec_setPair {i : Instr} {cs : List Check} {rd : Reg} {v : BitVec 256} {s : State}
    (hx : exec i s = runCommand (encode i) cs (State.setPair rd v) s) (he : firstError cs = none)
    (heven : rd.val % 2 = 0) :
    ∃ t, exec i s = .next t ∧ CompletesWriting [rd.val, rd.val + 1] i s t ∧ pairNat t rd = v.toNat := by
  obtain ⟨hnext, hc⟩ := exec_completes hx he (quiet_setPair ..)
  refine ⟨_, hnext, ⟨hc, xKeptBut_setPair s rd v, rfl, rfl, rfl, rfl⟩, ?_⟩
  have hpair : rd.val + 1 < 16 := by omega
  rw [pairNat, complete_getX, complete_getX, ← getPair_toNat, getPair_setPair s v hpair]

/-! ## Their checks -/

theorem isEven_of_mod {r : Reg} (h : r.val % 2 = 0) : Reg.isEven r = true := by simp [Reg.isEven, h]

theorem outOfField_getX (sw : Width) (s : State) (r : Reg) :
    outOfField sw (s.getX r) = decide (sw.modulus ≤ xNat s r) := rfl

theorem firstError_outOfField {sw : Width} {s : State} {r : Reg} (h : sw.modulus ≤ xNat s r) :
    firstError [(outOfField sw (s.getX r), .operandRange)] = some .operandRange := by
  simp [outOfField_getX, h]

theorem firstError_inField {sw : Width} {s : State} {r : Reg} (h : xNat s r < sw.modulus) :
    firstError [(outOfField sw (s.getX r), .operandRange)] = none := by
  simp [outOfField_getX, h]

section multiply

variable {sw : Width} {rs1 rs2 rs3 : Reg} {s : State}

/-- One operand of a multiply that is no field element is enough for OPERAND_RANGE (R144, R145). -/
theorem multiplyRange_fails
    (h : sw.modulus ≤ xNat s rs1 ∨ sw.modulus ≤ xNat s rs2 ∨ sw.modulus ≤ xNat s rs3) :
    multiplyRange sw rs1 rs2 rs3 s = (true, .operandRange) := by
  simpa [multiplyRange, outOfField_getX, or_assoc] using h

theorem multiplyRange_passes (h1 : xNat s rs1 < sw.modulus) (h2 : xNat s rs2 < sw.modulus)
    (h3 : xNat s rs3 < sw.modulus) : multiplyRange sw rs1 rs2 rs3 s = (false, .operandRange) := by
  simp [multiplyRange, outOfField_getX, h1, h2, h3]

/-- The sum of a multiply of field elements fits a pair (R151). -/
theorem multiplyAdd_fits (h1 : xNat s rs1 < sw.modulus) (h2 : xNat s rs2 < sw.modulus)
    (h3 : xNat s rs3 < sw.modulus) : multiplyAdd rs1 rs2 rs3 s < 2 ^ 256 := by
  have hsum : multiplyAdd rs1 rs2 rs3 s ≤ sw.modulus * sw.modulus - sw.modulus := mul_add_le h1 h2 h3
  have := Width.modulus_sq_le sw
  omega

end multiply

/-! ## The inverse -/

/-- The four moduli are Mersenne primes, by the Lucas-Lehmer test. -/
theorem Width.modulus_prime (w : Width) : w.modulus.Prime := by
  change (mersenne w.bits).Prime
  cases w
  · exact lucas_lehmer_sufficiency 61 (by norm_num) (by norm_num)
  · exact lucas_lehmer_sufficiency 89 (by norm_num) (by norm_num)
  · exact lucas_lehmer_sufficiency 107 (by norm_num) (by norm_num)
  · exact lucas_lehmer_sufficiency 127 (by norm_num) (by norm_num)

/-- Fermat's little theorem: x^(p-2) is the inverse of x (40_arith.md R149). -/
theorem mul_pow_sub_two_mod {p x : Nat} (hp : p.Prime) (h0 : 1 ≤ x) (hx : x < p) : x * (x ^ (p - 2) % p) % p = 1 := by
  have hcop : x.Coprime p := (Nat.coprime_of_lt_prime (by omega) hx hp).symm
  have hexp : p - 2 + 1 = p - 1 := by have := hp.two_le; omega
  calc x * (x ^ (p - 2) % p) % p = x ^ (p - 1) % p := by rw [Nat.mul_mod_mod, ← pow_succ', hexp]
    _ = 1 % p := by rw [← Nat.totient_prime hp]; exact Nat.ModEq.pow_totient hcop
    _ = 1 := Nat.mod_eq_of_lt hp.one_lt

/-! ## The statements -/

/-- Settles O29: behind the range check of the pair REDUCE writes one register, a residue that fits it. -/
theorem reduceWritesTheResidue : Obligations.ReduceWritesTheResidue := by
  refine ⟨rejectsBadFields .reduce (by decide), fun rd rs1 sw heven => ⟨reduce_hasWord rd sw heven, fun s =>
    ⟨fun hrange => exec_raises rfl ?_, fun hrange => ?_⟩⟩⟩ <;> rw [pairNat_eq] at hrange
  · simpa [isEven_of_mod heven] using hrange
  · obtain ⟨t, ht, ⟨hc, hframe⟩, hv⟩ :=
      exec_setX (i := .reduce rd rs1 sw) (s := s) rfl (by simpa [isEven_of_mod heven] using hrange)
    exact ⟨t, ht, hc, by rw [hv, toVal_mod_modulus, pairNat_eq], hframe⟩

/-- Settles O31: behind the range check MULADD writes one pair, which the exact sum fits. -/
theorem muladdWritesTheExactSum : Obligations.MuladdWritesTheExactSum := by
  refine ⟨rejectsBadFields .muladd (by decide), fun rd rs1 rs2 rs3 sw heven =>
    ⟨muladd_hasWord rs1 rs2 rs3 sw heven, fun s => ⟨fun hrange => exec_raises rfl ?_, fun h1 h2 h3 => ?_⟩⟩⟩
  · simp [isEven_of_mod heven, multiplyRange_fails hrange]
  · obtain ⟨t, ht, ⟨hc, hframe⟩, hv⟩ := exec_setPair (i := .muladd rd rs1 rs2 rs3 sw) (s := s) rfl
      (by simp [isEven_of_mod heven, multiplyRange_passes h1 h2 h3]) heven
    refine ⟨t, ht, hc, ?_, hframe⟩
    rw [hv, BitVec.toNat_ofNat, Nat.mod_eq_of_lt (multiplyAdd_fits h1 h2 h3)]
    rfl

/-- Settles O32: behind the range check MULADDR writes one register, a residue that fits it. -/
theorem muladdrWritesTheResidueOfTheSum : Obligations.MuladdrWritesTheResidueOfTheSum := by
  refine ⟨rejectsBadFields .muladdr (by decide), fun rd rs1 rs2 rs3 sw =>
    ⟨muladdr_hasWord rd rs1 rs2 rs3 sw, fun s => ⟨fun hrange => exec_raises rfl ?_, fun h1 h2 h3 => ?_⟩⟩⟩
  · simp [multiplyRange_fails hrange]
  · obtain ⟨t, ht, ⟨hc, hframe⟩, hv⟩ := exec_setX (i := .muladdr rd rs1 rs2 rs3 sw) (s := s) rfl
      (by simp [multiplyRange_passes h1 h2 h3])
    exact ⟨t, ht, hc, hv.trans (toVal_mod_modulus ..), hframe⟩

/-- Settles O34: the register POW writes holds the power by repeated squaring, for every exponent of 128 bits. -/
theorem powWritesThePower : Obligations.PowWritesThePower := by
  refine ⟨rejectsBadFields .pow (by decide), fun rd rs1 rs2 sw => ⟨pow_hasWord rd rs1 rs2 sw, fun s =>
    ⟨fun hrange => exec_raises rfl (firstError_outOfField hrange), fun hrange => ?_⟩⟩⟩
  obtain ⟨t, ht, ⟨hc, hframe⟩, hv⟩ :=
    exec_setX (i := .pow rd rs1 rs2 sw) (s := s) rfl (firstError_inField hrange)
  rw [powMod_eq _ _ _ (s.getX rs2).isLt, toVal_mod_modulus] at hv
  refine ⟨t, ht, hc, hv, fun h0 => ?_, hframe⟩
  rw [hv, show (s.getX rs2).toNat = 0 from h0, pow_zero, Nat.mod_eq_of_lt (Width.modulus_prime sw).one_lt]

/-- Settles O35: the register INV writes holds x^(p-2), the inverse by Fermat's little theorem. -/
theorem invWritesTheInverse : Obligations.InvWritesTheInverse := by
  refine ⟨rejectsBadFields .inv (by decide), fun rd rs1 sw => ⟨inv_hasWord rd rs1 sw, fun s =>
    ⟨fun hrange => exec_raises rfl (firstError_outOfField hrange), fun hrange => ?_⟩⟩⟩
  obtain ⟨t, ht, ⟨hc, hframe⟩, hv⟩ :=
    exec_setX (i := .inv rd rs1 sw) (s := s) rfl (firstError_inField hrange)
  obtain ⟨hlow, hhigh⟩ := Width.modulus_bounds sw
  rw [powMod_eq _ _ _ (by omega), toVal_mod_modulus] at hv
  refine ⟨t, ht, hc, hv, fun h1 => ?_, fun h0 => ?_, hframe⟩
  · rw [hv]
    exact mul_pow_sub_two_mod (Width.modulus_prime sw) h1 hrange
  · rw [hv, show (s.getX rs1).toNat = 0 from h0, zero_pow (by omega), Nat.zero_mod]

end Sys2Proof.Machine
end

section
/-! The table of a configured channel: its entries are the roll deltas, and LOOKUP reads one of them (41_table.md R172
to R174). -/

namespace Sys2Proof

open Sys2Proof.Spec

/-! ## The word of LOOKUP -/

/-- LOOKUP's word in Format L as bits and as a number. -/
theorem formatL_lookup_eq_wordL (rd : Reg) (ch : Chan) (a b : Byte) :
    formatL Op.lookup.byte (regBits rd) (BitVec.ofNat 2 ch.val) a b = wordL rd ch a.toNat b.toNat := by
  have h := formatL_toNat Op.lookup.byte (regBits rd) (BitVec.ofNat 2 ch.val) a b
  rw [regBits_toNat, BitVec.toNat_ofNat, Nat.mod_eq_of_lt (show ch.val < 2 ^ 2 from ch.isLt)] at h
  rw [wordL, show 0x11 = Op.lookup.byte.toNat from rfl, ← h, BitVec.ofNat_toNat, BitVec.setWidth_eq]

theorem formatL_reserved (op : BitVec 8) (rd : BitVec 4) (ch : BitVec 2) (a b : Byte) :
    (formatL op rd ch a b).extractLsb' 16 2 = 0#2 := by
  apply extractLsb'_ext
  intro i hi
  rw [formatL_getLsbD]
  interval_cases i <;> rfl

/-- The row of LOOKUP leaves every field of Format L free: it fixes the opcode and the reserved bits alone (R111). -/
theorem formatL_lookup_matches (rd : BitVec 4) (ch : BitVec 2) (a b : Byte) :
    formatL Op.lookup.byte rd ch a b &&& Op.lookup.mask false = Op.lookup.pattern false := by
  rw [show Op.lookup.pattern false = formatL Op.lookup.byte 0 0 0 0 from rfl]
  symm
  apply formatL_of_fields <;> rw [BitVec.extractLsb'_and]
  · rw [formatL_byte]
    rfl
  · exact BitVec.and_zero
  · exact BitVec.and_zero
  · rw [formatL_reserved, BitVec.zero_and]
  · exact BitVec.and_zero
  · exact BitVec.and_zero

theorem lookup_hasWord (rd : Reg) (ch : Chan) (a b : Byte) :
    HasWord (.lookup rd ch a b) (wordL rd ch a.toNat b.toNat) := by
  refine ⟨formatL_lookup_eq_wordL rd ch a b, ?_⟩
  rw [← formatL_lookup_eq_wordL, decode_of_row (formatL_lookup_matches ..), Op.instr,
    regField_of_bits (formatL_rd ..), chanField_of_bits (formatL_ch ..), formatL_a, formatL_b]

end Sys2Proof

namespace Sys2Proof.Machine

open Sys2Proof.Spec

/-! ## The entries of a configured channel -/

section entries

variable {s : State} {c : Nat} (hi : Inv s) (hv : s.cfg.valid = true) (hc : c < s.channels)

include hi hv hc

/-- While configured, an entry is the closed form of R172. -/
theorem entry_of_inv (a b : Byte) : (s.entry c a b).toNat
    = (s.modulus - a.toNat * (s.maxExp c).toNat % s.modulus + b.toNat) % s.modulus := by
  obtain ⟨-, -, hch, -⟩ := configured_of_inv hi hv
  obtain ⟨-, -, -, -, hentry⟩ := hch c hc
  exact hentry a b

theorem entry_lt_modulus (a b : Byte) : (s.entry c a b).toNat < s.modulus := by
  rw [entry_of_inv hi hv hc]
  exact Nat.mod_lt _ (modulus_pos s)

/-- The row of the departing byte 0 holds the arriving bytes. -/
theorem entry_zero_left (b : Byte) : (s.entry c 0 b).toNat = b.toNat := by
  have hb : b.toNat < s.modulus := lt_of_lt_of_le (by omega) (modulus_bounds s).1
  rw [entry_of_inv hi hv hc, show (0 : Byte).toNat = 0 from rfl, Nat.zero_mul, Nat.zero_mod, Nat.sub_zero,
    Nat.add_mod_left, Nat.mod_eq_of_lt hb]

/-- The head of a row. -/
theorem entry_zero_right (a : Byte) : (s.entry c a 0).toNat
    = (s.modulus - a.toNat * (s.maxExp c).toNat % s.modulus) % s.modulus := by
  rw [entry_of_inv hi hv hc, show (0 : Byte).toNat = 0 from rfl, Nat.add_zero]

/-- Along a row each entry is the one before it plus 1 mod P (R173). -/
theorem entry_succ (a : Byte) {b : Byte} (hb : b.toNat < 255) :
    (s.entry c a (b + 1)).toNat = ((s.entry c a b).toNat + 1) % s.modulus := by
  have hsucc : (b + 1).toNat = b.toNat + 1 := BitVec.toNat_add_of_lt (show b.toNat + 1 < 2 ^ 8 by omega)
  rw [entry_of_inv hi hv hc, entry_of_inv hi hv hc, hsucc, Nat.mod_add_mod, Nat.add_assoc]

end entries

/-! ## The checks of LOOKUP -/

theorem firstError_notConfigured {s : State} (hv : s.cfg.valid = false) (cs : List Check) :
    firstError ((!s.cfg.valid, .notConfigured) :: cs) = some .notConfigured := by
  rw [hv]
  rfl

theorem firstError_configured {s : State} (hv : s.cfg.valid = true) (cs : List Check) :
    firstError ((!s.cfg.valid, .notConfigured) :: cs) = firstError cs := by
  rw [hv]
  rfl

/-! ## The statements -/

/-- Settles O42: the invariant holds the closed form of the entries, and the other clauses are its arithmetic mod P. -/
theorem tableEntriesAreRollDeltas : Obligations.TableEntriesAreRollDeltas := fun _ _ a b hi hv hc =>
  ⟨entry_of_inv hi hv hc a b, entry_lt_modulus hi hv hc a b, entry_zero_left hi hv hc b,
    entry_zero_right hi hv hc a, entry_succ hi hv hc a⟩

/-- Settles O43: behind its two checks LOOKUP writes one register, the table entry. -/
theorem lookupReadsTheTable : Obligations.LookupReadsTheTable := by
  refine ⟨rejectsBadFields .lookup (by decide), fun rd ch a b => ⟨lookup_hasWord rd ch a b, fun s =>
    ⟨fun hv => exec_raises rfl (firstError_notConfigured hv _), fun hv hk => exec_raises rfl ?_,
      fun hv hk => ?_⟩⟩⟩
  · rw [firstError_configured hv]
    simp [hk]
  · obtain ⟨t, ht, ⟨hc, hframe⟩, hx⟩ := exec_setX (i := .lookup rd ch a b) (s := s) rfl
      (by rw [firstError_configured hv]; simp [hk])
    exact ⟨t, ht, hc, BitVec.eq_of_toNat_eq hx, hframe⟩

end Sys2Proof.Machine
end

section
/-! The roll unit: FILL and SLIDE (42_roll.md R190 to R193). Both are commands of Format B (30_encoding.md R107), run
behind the same checks and roll every channel; they differ in what is added. -/

namespace Sys2Proof

open Sys2Proof.Spec

/-! ## A word of Format B -/

/-- Format B as bits and as a number. -/
theorem formatB_eq_wordB (op : BitVec 8) (a b : Byte) : formatB op a b = wordB op.toNat a.toNat b.toNat := by
  rw [wordB, ← formatB_toNat, BitVec.ofNat_toNat, BitVec.setWidth_eq]

theorem formatB_reserved (op : BitVec 8) (a b : Byte) : (formatB op a b).extractLsb' 16 8 = 0#8 := by
  apply extractLsb'_ext
  intro i hi
  rw [formatB_getLsbD]
  interval_cases i <;> rfl

/-- A mask cuts a word of Format B field by field. -/
theorem formatB_and (op : BitVec 8) (a b : Byte) (m : Word) : formatB op a b &&& m
    = formatB (op &&& m.extractLsb' 24 8) (a &&& m.extractLsb' 8 8) (b &&& m.extractLsb' 0 8) := by
  symm
  apply formatB_of_fields <;> rw [BitVec.extractLsb'_and]
  · rw [formatB_byte]
  · rw [formatB_reserved, BitVec.zero_and]
  · rw [formatB_a]
  · rw [formatB_b]

/-- With both bytes 0, a word of Format B is its opcode's pattern. -/
theorem formatB_opcode_only (op : Op) : formatB op.byte 0 0 = op.pattern false := by
  cases op <;> rfl

/-- A word of Format B matches its opcode's row if the mask leaves 0 of both bytes (R111). -/
theorem formatB_matches {op : Op} {a b : Byte} (ha : a &&& (op.mask false).extractLsb' 8 8 = 0)
    (hb : b &&& (op.mask false).extractLsb' 0 8 = 0) :
    formatB op.byte a b &&& op.mask false = op.pattern false := by
  rw [formatB_and, byte_and_mask, ha, hb, formatB_opcode_only]

/-- A word of Format B that matches its opcode's row is the word of the command its fields make. -/
theorem hasWord_wordB {op : Op} {a b : Byte} {i : Instr}
    (hrow : formatB op.byte a b &&& op.mask false = op.pattern false) (hi : op.instr (formatB op.byte a b) = i) :
    HasWord i (wordB op.byte.toNat a.toNat b.toNat) := by
  rw [← formatB_eq_wordB]
  exact hasWord_of_decode (hi ▸ decode_of_row hrow)

/-- The row of FILL fixes the popped byte at 0 and leaves the pushed one free. -/
theorem fill_hasWord (b : Byte) : HasWord (.fill b) (wordB 0x20 0 b.toNat) :=
  hasWord_wordB (op := .fill) (a := 0) (formatB_matches BitVec.zero_and BitVec.and_zero) (by rw [Op.instr, formatB_b])

/-- The row of SLIDE leaves both bytes free. -/
theorem slide_hasWord (a b : Byte) : HasWord (.slide a b) (wordB 0x21 a.toNat b.toNat) :=
  hasWord_wordB (op := .slide) (formatB_matches BitVec.and_zero BitVec.and_zero)
    (by rw [Op.instr, formatB_a, formatB_b])

end Sys2Proof

namespace Sys2Proof.Machine

open Sys2Proof.Spec

/-! ## The checks of a roll -/

theorem any_fpOutOfField_iff (s : State) :
    (List.range s.channels).any (fpOutOfField s) = true ↔ FpOutOfRange s := by
  simp [fpOutOfField, FpOutOfRange, fpNat]

/-- One configured fingerprint register that is no field element is enough for OPERAND_RANGE (R190). -/
theorem firstError_rollChecks_of_outOfRange {s : State} (hv : s.cfg.valid = true) (hr : FpOutOfRange s) :
    firstError (rollChecks s) = some .operandRange := by
  rw [rollChecks, firstError_configured hv, firstError_cons, if_pos ((any_fpOutOfField_iff s).2 hr)]

theorem firstError_rollChecks_of_inRange {s : State} (hv : s.cfg.valid = true) (hr : ¬ FpOutOfRange s) :
    firstError (rollChecks s) = none := by
  rw [rollChecks, firstError_configured hv, firstError_cons, if_neg (mt (any_fpOutOfField_iff s).1 hr), firstError_nil]

/-! ## What a roll writes -/

/-- A configured channel is rolled; the result is a residue, which its register holds whole. -/
theorem fpNat_rollBy (addend : Nat → Nat) (s : State) {c : Nat} (hc : c < s.channels) :
    fpNat (rollBy addend s) c = ((s.base c).toNat * fpNat s c + addend c) % s.modulus := by
  rw [fpNat, rollBy, getFp_setFps_perChannel _ _ (hc.trans_le (channels_le s)), if_pos hc]
  exact toVal_mod_modulus s.cfg.wsel.width _

/-- A channel past K - 1 keeps its fingerprint. -/
theorem getFp_rollBy_unused (addend : Nat → Nat) (s : State) {c : Nat} (h4 : c < 4) (hk : s.channels ≤ c) :
    (rollBy addend s).getFp c = s.getFp c := by
  rw [rollBy, getFp_setFps_perChannel _ _ h4, if_neg (Nat.not_lt.2 hk)]

/-- A roll command in a configured engine with field elements in its channels completes, whatever it adds. -/
theorem exec_rollBy {i : Instr} {addend : Nat → Nat} {s : State}
    (hx : exec i s = runCommand (encode i) (rollChecks s) (rollBy addend) s) (hv : s.cfg.valid = true)
    (hr : ¬ FpOutOfRange s) :
    ∃ t, exec i s = .next t ∧ Completes (encode i) s t ∧
      (∀ c < s.channels, fpNat t c = ((s.base c).toNat * fpNat s c + addend c) % s.modulus) ∧
      (∀ c < 4, s.channels ≤ c → t.getFp c = s.getFp c) ∧
      XKeptBut [] s t ∧ CfgKept s t ∧ EntropyKept s t := by
  obtain ⟨hnext, hc⟩ := exec_completes hx (firstError_rollChecks_of_inRange hv hr) (quiet_setFps ..)
  exact ⟨_, hnext, hc, fun _ => fpNat_rollBy addend s, fun _ => getFp_rollBy_unused addend s,
    fun _ _ _ => rfl, rfl, rfl, rfl⟩

/-! ## The statements -/

/-- Settles O45: FILL is a roll by the pushed byte, the same in every channel. -/
theorem fillRollsEveryChannel : Obligations.FillRollsEveryChannel :=
  ⟨rejectsBadFields .fill (by decide), fun b => ⟨fill_hasWord b, fun _ =>
    ⟨fun hv => exec_raises rfl (firstError_notConfigured hv _),
      fun hv hr => exec_raises rfl (firstError_rollChecks_of_outOfRange hv hr), exec_rollBy rfl⟩⟩⟩

/-- Settles O46: SLIDE is a roll by the table entry of the two bytes, each channel's own. -/
theorem slideRollsEveryChannel : Obligations.SlideRollsEveryChannel :=
  ⟨rejectsBadFields .slide (by decide), fun a b => ⟨slide_hasWord a b, fun _ =>
    ⟨fun hv => exec_raises rfl (firstError_notConfigured hv _),
      fun hv hr => exec_raises rfl (firstError_rollChecks_of_outOfRange hv hr), exec_rollBy rfl⟩⟩⟩

end Sys2Proof.Machine
end

section
/-! The combiner: FPCLR, FPGET, FPPUT, CMP and PACK2 (43_combiner.md R210 to R216). FPCLR and FPPUT write the fingerprint
registers, FPGET a tuple of value registers, CMP and PACK2 one value register. -/

namespace Sys2Proof

open Sys2Proof.Spec

/-! ## Their words -/

theorem fpclr_hasWord : HasWord .fpclr (wordN 0x30) :=
  hasWord_of_decode (decode_of_row (op := .fpclr) (e := false) rfl)

theorem fpget_hasWord (rd : Reg) : HasWord (.fpget rd) (wordR 0x31 rd 0 0 0 0) :=
  hasWord_wordR (op := .fpget) (rs1 := 0) (rs2 := 0) (rs3 := 0) (sw := .w61)
    (formatR_matches BitVec.and_zero BitVec.zero_and BitVec.zero_and BitVec.zero_and BitVec.zero_and)
    (by simp [Op.instr])

theorem fpput_hasWord (rs1 : Reg) : HasWord (.fpput rs1) (wordR 0x32 0 rs1 0 0 0) :=
  hasWord_wordR (op := .fpput) (rd := 0) (rs2 := 0) (rs3 := 0) (sw := .w61)
    (formatR_matches BitVec.zero_and BitVec.and_zero BitVec.zero_and BitVec.zero_and BitVec.zero_and)
    (by simp [Op.instr])

theorem cmp_hasWord (rd rs1 rs2 : Reg) : HasWord (.cmp rd rs1 rs2) (wordR 0x33 rd rs1 rs2 0 0) :=
  hasWord_wordR (op := .cmp) (rs3 := 0) (sw := .w61)
    (formatR_matches BitVec.and_zero BitVec.and_zero BitVec.and_zero BitVec.zero_and BitVec.zero_and)
    (by simp [Op.instr])

theorem pack2_hasWord (rd : Reg) : HasWord (.pack2 rd) (wordR 0x34 rd 0 0 0 0) :=
  hasWord_wordR (op := .pack2) (rs1 := 0) (rs2 := 0) (rs3 := 0) (sw := .w61)
    (formatR_matches BitVec.and_zero BitVec.zero_and BitVec.zero_and BitVec.zero_and BitVec.zero_and)
    (by simp [Op.instr])

end Sys2Proof

namespace Sys2Proof.Machine

open Sys2Proof.Spec

/-! ## How they complete -/

/-- A command that writes all four fingerprint registers, none of its checks failing. -/
theorem exec_setFps {i : Instr} {cs : List Check} {effect : State → State} {f : Nat → Val} {s : State}
    (hx : exec i s = runCommand (encode i) cs effect s) (hf : effect s = s.setFps (perChannel f))
    (he : firstError cs = none) :
    ∃ t, exec i s = .next t ∧ Completes (encode i) s t ∧ (∀ c < 4, t.getFp c = f c) ∧
      XKeptBut [] s t ∧ CfgKept s t ∧ EntropyKept s t := by
  obtain ⟨hnext, hc⟩ := exec_completes hx he (hf ▸ quiet_setFps ..)
  rw [hf] at hnext hc
  exact ⟨_, hnext, hc, fun _ => getFp_setFps_perChannel f s, fun _ _ _ => rfl, rfl, rfl, rfl⟩

theorem getX_setTuple_add (vs : List Val) {n c : Nat} (s : State) (hc : c < vs.length) (hn : n + vs.length ≤ 16) :
    (State.setTuple n vs s).getX (n + c) = vs.getD c 0 := by
  rw [getX_setTuple vs n (n + c) s (by omega), if_pos (by omega), Nat.add_sub_cancel_left]

theorem xKeptBut_setTuple (vs : List Val) (n : Nat) (s : State) :
    XKeptBut ((List.range vs.length).map (n + ·)) s (State.setTuple n vs s) := by
  intro m hm hnot
  rw [getX_setTuple vs n m s hm, if_neg]
  rintro ⟨hlow, hhigh⟩
  exact hnot (List.mem_map.2 ⟨m - n, List.mem_range.2 (by omega), by omega⟩)

/-- A command that writes a tuple of value registers, none of its checks failing. -/
theorem exec_setTuple {i : Instr} {cs : List Check} {n : Nat} {vs : List Val} {s : State}
    (hx : exec i s = runCommand (encode i) cs (State.setTuple n vs) s) (he : firstError cs = none)
    (hn : n + vs.length ≤ 16) :
    ∃ t, exec i s = .next t ∧ CompletesWriting ((List.range vs.length).map (n + ·)) i s t ∧
      ∀ c < vs.length, t.getX (n + c) = vs.getD c 0 := by
  obtain ⟨hnext, hc⟩ := exec_completes hx he (quiet_setTuple ..)
  refine ⟨_, hnext, ⟨hc, xKeptBut_setTuple vs n s, ?_⟩, fun c hc => getX_setTuple_add vs s hc hn⟩
  rw [setTuple_eq]
  exact ⟨rfl, rfl, rfl, rfl⟩

/-! ## The checks of a tuple -/

theorem tuplePastEnd_eq_true (n k : Nat) : tuplePastEnd n k = true ↔ 15 < n + k - 1 := by
  simp [tuplePastEnd]

theorem firstError_tuple_pastEnd {s : State} {n : Nat} (hv : s.cfg.valid = true) (hn : 15 < n + s.channels - 1) :
    firstError [(!s.cfg.valid, .notConfigured), (tuplePastEnd n s.channels, .illegalField)] = some .illegalField := by
  rw [firstError_configured hv, (tuplePastEnd_eq_true ..).2 hn]
  rfl

theorem firstError_tuple_inBounds {s : State} {n : Nat} (hv : s.cfg.valid = true) (hn : n + s.channels - 1 ≤ 15) :
    firstError [(!s.cfg.valid, .notConfigured), (tuplePastEnd n s.channels, .illegalField)] = none := by
  rw [firstError_configured hv, (tuplePastEnd_eq_false ..).2 hn]
  rfl

/-! ## The order of two tuples -/

/-- Lexicographic order, channel 0 first: channel 0 decides unless it agrees (43_combiner.md R214). -/
theorem lexLess_succ (k : Nat) (A B : Nat → Nat) :
    LexLess (k + 1) A B ↔ A 0 < B 0 ∨ A 0 = B 0 ∧ LexLess k (fun c => A (c + 1)) fun c => B (c + 1) := by
  constructor
  · rintro ⟨j | j, hj, heq, hlt⟩
    · exact .inl hlt
    · exact .inr ⟨heq 0 (by omega), j, by omega, fun c hc => heq (c + 1) (by omega), hlt⟩
  · rintro (hlt | ⟨h0, j, hj, heq, hlt⟩)
    · exact ⟨0, by omega, fun _ hc => absurd hc (Nat.not_lt_zero _), hlt⟩
    · refine ⟨j + 1, by omega, fun c hc => ?_, hlt⟩
      cases c with
      | zero => exact h0
      | succ c => exact heq c (by omega)

theorem not_lexLess_zero (A B : Nat → Nat) : ¬ LexLess 0 A B := fun ⟨_, hj, _⟩ => Nat.not_lt_zero _ hj

/-- The comparison of two tuples of one length, channel 0 first. -/
theorem compareTuples_succ (k : Nat) (A B : Nat → Val) :
    compareTuples ((List.range (k + 1)).map A) ((List.range (k + 1)).map B)
      = if A 0 = B 0 then compareTuples ((List.range k).map fun c => A (c + 1)) ((List.range k).map fun c => B (c + 1))
        else if (A 0).toNat < (B 0).toNat then 1 else 2 := by
  simp only [List.range_succ_eq_map, List.map_cons, List.map_map]
  rfl

/-- CMP's result is 0, 1 or 2 as the first tuple equals, precedes or follows the second (R213, R214). -/
theorem compareTuples_spec {k : Nat} {A B : Nat → Val} {r : Nat}
    (hr : r = (compareTuples ((List.range k).map A) ((List.range k).map B)).toNat) :
    (r = 0 ↔ ∀ c < k, (A c).toNat = (B c).toNat) ∧
    (r = 1 ↔ LexLess k (fun c => (A c).toNat) fun c => (B c).toNat) ∧
    (r = 2 ↔ LexLess k (fun c => (B c).toNat) fun c => (A c).toNat) ∧ r ≤ 2 := by
  subst hr
  induction k generalizing A B with
  | zero => simp [compareTuples, not_lexLess_zero]
  | succ k ih =>
    simp only [compareTuples_succ, lexLess_succ, Nat.forall_lt_succ_left, ← BitVec.toNat_inj]
    rcases Nat.lt_trichotomy (A 0).toNat (B 0).toNat with hlt | heq | hgt
    · simp [hlt, hlt.ne, hlt.ne', hlt.not_gt]
    · simpa [heq] using ih (A := fun c => A (c + 1)) (B := fun c => B (c + 1))
    · simp [hgt, hgt.ne, hgt.ne', hgt.not_gt]

/-! ## The checks of CMP -/

/-- Some element of the two tuples is no field element. -/
theorem any_getTuple_iff (s : State) (n m : Nat) :
    (s.getTuple n s.channels ++ s.getTuple m s.channels).any (fun v => s.modulus ≤ v.toNat) = true
      ↔ ∃ c < s.channels, s.modulus ≤ xNat s (n + c) ∨ s.modulus ≤ xNat s (m + c) := by
  simp only [State.getTuple, List.any_append, List.any_map, Bool.or_eq_true, List.any_eq_true, List.mem_range,
    Function.comp_apply, decide_eq_true_eq, xNat, ← exists_or, ← and_or_left]

/-! ## The check and the value of PACK2 -/

/-- One of channels 0 and 1 is no field element. -/
theorem fpOutOfField_pair_iff (s : State) :
    (fpOutOfField s 0 || fpOutOfField s 1) = true ↔ s.modulus ≤ fpNat s 0 ∨ s.modulus ≤ fpNat s 1 := by
  simp [fpOutOfField, fpNat]

/-- Two channels make the 122-bit configuration, whose fields have 61 bits (30_encoding.md R106). -/
theorem WSel.modulus_of_two_channels {w : WSel} (h : w.channels = 2) : w.modulus = 2 ^ 61 - 1 := by
  cases w with
  | w122 => rfl
  | _ => cases h

/-- Values of 61 bits are packed without loss, the first one high (43_combiner.md R216). -/
theorem packPair_toNat {a b : Val} (ha : a.toNat < 2 ^ 61) (hb : b.toNat < 2 ^ 61) :
    (packPair a b).toNat = a.toNat * 2 ^ 61 + b.toNat := by
  rw [packPair, BitVec.toNat_setWidth, toNat_append_add]
  simp only [BitVec.extractLsb'_toNat, Nat.shiftRight_zero, Nat.mod_eq_of_lt ha, Nat.mod_eq_of_lt hb]
  omega

/-! ## The statements -/

/-- Settles O52: FPCLR runs behind no check, so it completes in every state. -/
theorem fpclrClearsEveryFingerprint : Obligations.FpclrClearsEveryFingerprint :=
  ⟨rejectsBadFields .fpclr (by decide), fpclr_hasWord, fun _ =>
    exec_setFps (i := .fpclr) (cs := []) (effect := clearFp) rfl rfl rfl⟩

/-- Settles O53: behind its two checks FPGET writes a tuple of value registers, the fingerprints. -/
theorem fpgetCopiesTheTuple : Obligations.FpgetCopiesTheTuple := by
  refine ⟨rejectsBadFields .fpget (by decide), fun rd => ⟨fpget_hasWord rd, fun s =>
    ⟨fun hv => exec_raises rfl (firstError_notConfigured hv _),
      fun hv hn => exec_raises rfl (firstError_tuple_pastEnd hv hn), fun hv hn => ?_⟩⟩⟩
  obtain ⟨t, ht, ⟨hc, hframe⟩, hx⟩ := exec_setTuple (i := .fpget rd) (s := s) rfl (firstError_tuple_inBounds hv hn)
    (by rw [List.length_map, List.length_range]; omega)
  rw [List.length_map, List.length_range] at hx hframe
  exact ⟨t, ht, hc, fun c hk => by rw [hx c hk]; simp [hk], hframe⟩

/-- Settles O54: behind its two checks FPPUT writes the fingerprint registers, those past K - 1 with their own values. -/
theorem fpputLoadsTheTuple : Obligations.FpputLoadsTheTuple := by
  refine ⟨rejectsBadFields .fpput (by decide), fun rs1 => ⟨fpput_hasWord rs1, fun s =>
    ⟨fun hv => exec_raises rfl (firstError_notConfigured hv _),
      fun hv hn => exec_raises rfl (firstError_tuple_pastEnd hv hn), fun hv hn => ?_⟩⟩⟩
  obtain ⟨t, ht, hc, hfp, hframe⟩ :=
    exec_setFps (i := .fpput rs1) (effect := loadFp rs1) (s := s) rfl rfl (firstError_tuple_inBounds hv hn)
  exact ⟨t, ht, hc, fun c hk => by rw [hfp c (hk.trans_le (channels_le s)), if_pos hk],
    fun c h4 hk => by rw [hfp c h4, if_neg (Nat.not_lt.2 hk)], hframe⟩

/-- Settles O55: behind its three checks CMP writes one register, the comparison of the two tuples. -/
theorem cmpOrdersTheTuples : Obligations.CmpOrdersTheTuples := by
  refine ⟨rejectsBadFields .cmp (by decide), fun rd rs1 rs2 => ⟨cmp_hasWord rd rs1 rs2, fun s =>
    ⟨fun hv => exec_raises rfl (firstError_notConfigured hv _), fun hv hn => exec_raises rfl ?_,
      fun hv h1 h2 hr => exec_raises rfl ?_, fun hv h1 h2 hr => ?_⟩⟩⟩
  · rw [firstError_configured hv, firstError_cons, if_pos]
    simpa [tuplePastEnd_eq_true] using hn
  · rw [firstError_configured hv, (tuplePastEnd_eq_false ..).2 h1, (tuplePastEnd_eq_false ..).2 h2,
      (any_getTuple_iff ..).2 hr]
    rfl
  · have hrange : ¬ ∃ c < s.channels, s.modulus ≤ xNat s (rs1 + c) ∨ s.modulus ≤ xNat s (rs2 + c) := by
      simpa using hr
    obtain ⟨t, ht, ⟨hc, hframe⟩, hx⟩ := exec_setX (i := .cmp rd rs1 rs2) (s := s) rfl (by
      rw [firstError_configured hv, (tuplePastEnd_eq_false ..).2 h1, (tuplePastEnd_eq_false ..).2 h2,
        Bool.eq_false_iff.2 (mt (any_getTuple_iff ..).1 hrange)]
      rfl)
    obtain ⟨heq, hless, hgreater, hle⟩ := compareTuples_spec hx
    exact ⟨t, ht, hc, heq, hless, hgreater, hle, hframe⟩

/-- Settles O56: behind its three checks PACK2 writes one register, the packed value, which 122 bits hold. -/
theorem pack2PacksTwoChannels : Obligations.Pack2PacksTwoChannels := by
  refine ⟨rejectsBadFields .pack2 (by decide), fun rd => ⟨pack2_hasWord rd, fun s =>
    ⟨fun hv => exec_raises rfl (firstError_notConfigured hv _), fun hv hk => exec_raises rfl ?_,
      fun hv hk hr => exec_raises rfl ?_, fun hv hk h0 h1 => ?_⟩⟩⟩
  · rw [firstError_configured hv]
    simp [hk]
  · rw [firstError_configured hv, hk, (fpOutOfField_pair_iff s).2 hr]
    rfl
  · obtain ⟨t, ht, ⟨hc, hframe⟩, hx⟩ := exec_setX (i := .pack2 rd) (s := s) rfl (by
      rw [firstError_configured hv, hk,
        Bool.eq_false_iff.2 (mt (fpOutOfField_pair_iff s).1 (not_or.2 ⟨h0.not_ge, h1.not_ge⟩))]
      rfl)
    rw [State.modulus, WSel.modulus_of_two_channels hk] at h0 h1
    have hvalue : xNat t rd = fpNat s 0 * 2 ^ 61 + fpNat s 1 :=
      hx.trans (packPair_toNat (Nat.lt_of_lt_pred h0) (Nat.lt_of_lt_pred h1))
    exact ⟨t, ht, hc, hvalue, by omega, hframe⟩

end Sys2Proof.Machine
end

section
/-! The way back from an error and the interrupt level (60_exceptions.md R235, R237; 10_state.md R49): what a step can do
to ERR and ERRCODE and to the enables, from which a fall of irq is told. -/

namespace Sys2Proof.Machine

open Sys2Proof.Spec

/-! ## The error record -/

/-- Everything a step can do to ERR and ERRCODE: the host or a reset clears them, an error sets both, or they stay. -/
theorem step_error_cases {s t : State} (h : step s = .next t) :
    (∃ e rest, s.agenda = e :: rest ∧ (IsReset e ∨ StatusWrite 2 e)) ∨
    (t.err = true ∧ t.errCode ≠ .noError) ∨ (t.err = s.err ∧ t.errCode = s.errCode) := by
  rcases step_next_cases h with ⟨rest, hx⟩ | ⟨e, rest, ha, he, -⟩ | ⟨a, rest, ha, -, -, -, hk | ⟨-, -, hs⟩⟩
  · rcases engineStep_next_cases hx with ⟨-, rfl⟩ | ⟨w, e, -, hne, herr, rfl, -⟩ |
      ⟨w, i, -, -, -, -, -, herr, hcode, -⟩
    · exact .inr (.inr ⟨rfl, rfl⟩)
    · exact .inr (.inl ⟨herr, hne⟩)
    · exact .inr (.inr ⟨herr, hcode⟩)
  · exact .inl ⟨e, rest, ha, .inl he⟩
  · exact .inr (.inr hk)
  · exact .inl ⟨_, rest, ha, .inr hs⟩

/-- Settles O11: of everything a step can do to the error record only the host's clearing write and a reset clear it. -/
theorem errIsClearedOnlyByTheHostOrReset : Obligations.ErrIsClearedOnlyByTheHostOrReset := by
  refine ⟨fun s v rest ha hv => ?_, fun s t e rest ha he ht => ?_, fun s t h hclear => ?_⟩
  · obtain ⟨-, statusWrite, -⟩ := statusRegisterFields
    refine ⟨_, statusWrite s v rest ha, ?_, if_pos hv, rfl⟩
    rw [hv, Bool.not_true, Bool.and_false]
  · obtain ⟨u, hu, hr⟩ := step_of_isReset ha he
    cases hu.symm.trans ht
    obtain ⟨-, -, -, -, -, -, -, -, -, herr, hcode, -⟩ := hr
    exact ⟨herr, hcode⟩
  · rcases step_error_cases h with hcause | ⟨herr, hcode⟩ | ⟨herr, hcode⟩
    · exact hcause
    · rcases hclear with ⟨-, h0⟩ | ⟨-, h0⟩
      · cases herr.symm.trans h0
      · exact absurd h0 hcode
    · rcases hclear with ⟨h1, h0⟩ | ⟨h1, h0⟩
      · cases h1.symm.trans (herr.symm.trans h0)
      · exact absurd (hcode.symm.trans h0) h1

/-! ## The enables -/

/-- From s to t the interrupt enables stayed. -/
def EnablesKept (s t : State) : Prop := t.errIe = s.errIe ∧ t.doneIe = s.doneIe

theorem enablesKept_writeReg (w : Word) (s : State) {r : PortReg} (hr : r ≠ .ctrl) :
    EnablesKept s (s.writeReg w r) := by
  rcases writeReg_cases w s r with he | ⟨h, -⟩ | ⟨h, -⟩ | ⟨-, -, -, he⟩ | ⟨-, -, -, he⟩ | ⟨-, -, -, he⟩ |
    ⟨-, -, he⟩ | ⟨_, _, -, he⟩ | ⟨_, _, -, he⟩
  case inr.inl | inr.inr.inl => exact absurd h hr
  all_goals
    rw [he]
    exact ⟨rfl, rfl⟩

theorem enablesKept_engineStep {s t : State} (h : engineStep s = .next t) : EnablesKept s t := by
  rcases engineStep_next_cases h with ⟨-, rfl⟩ | ⟨w, e, -, -, hw⟩ | ⟨w, i, -, -, hw⟩
  · exact ⟨rfl, rfl⟩
  · obtain ⟨-, -, -, -, -, -, -, herrIe, hdoneIe, -⟩ := hw
    exact ⟨herrIe, hdoneIe⟩
  · obtain ⟨-, -, -, -, -, -, herrIe, hdoneIe, -⟩ := hw
    exact ⟨herrIe, hdoneIe⟩

/-- A completed access is a CTRL write, or keeps the enables. -/
theorem enablesKept_completeAccess (a : Access) (s : State) :
    CtrlWrite (.access a) ∨ EnablesKept s (s.completeAccess a) := by
  rcases completeAccess_cases a s with ⟨-, hx⟩ | ⟨-, -, hx⟩ | ⟨hl, hw, hx⟩
  · exact .inr (hx ▸ ⟨rfl, rfl⟩)
  · exact .inr (hx ▸ ⟨rfl, rfl⟩)
  · by_cases hr : a.reg = .ctrl
    · exact .inl ⟨(legal_iff a).1 hl, hw, portReg_eq_ctrl hr⟩
    · exact .inr (hx ▸ enablesKept_writeReg a.wdata s hr)

/-- Only a reset or a CTRL write changes the enables. -/
theorem step_enables_cases {s t : State} (h : step s = .next t) :
    (∃ e rest, s.agenda = e :: rest ∧ (IsReset e ∨ CtrlWrite e)) ∨ EnablesKept s t := by
  rcases step_cases s with ⟨-, hx⟩ | ⟨rest, -, hx⟩ | ⟨rest, ha, -⟩ | ⟨a, rest, -, -, -, hx⟩ | ⟨a, rest, ha, -, hx⟩
  · exact .inr (enablesKept_engineStep (hx.symm.trans h))
  · exact .inr (enablesKept_engineStep (s := s.withAgenda rest) (hx.symm.trans h))
  · exact .inl ⟨_, rest, ha, .inl trivial⟩
  · exact .inr (enablesKept_engineStep (hx.symm.trans h))
  · cases hx.symm.trans h
    rcases enablesKept_completeAccess a (s.withAgenda rest) with hc | hk
    · exact .inl ⟨_, rest, ha, .inr hc⟩
    · exact .inr hk

/-! ## The interrupt level -/

theorem irq_eq_true_iff (s : State) :
    s.irq = true ↔ (s.err = true ∧ s.errIe = true) ∨ (s.done = true ∧ s.doneIe = true) := by
  rw [State.irq, Bool.or_eq_true, Bool.and_eq_true, Bool.and_eq_true]

/-- While the enables stay, irq falls only with one of its sources. -/
theorem source_falls_of_irq_falls {s t : State} (hk : EnablesKept s t) (h1 : s.irq = true) (h0 : t.irq = false) :
    (s.err = true ∧ t.err = false) ∨ (s.done = true ∧ t.done = false) := by
  obtain ⟨herrIe, hdoneIe⟩ := hk
  rw [State.irq, herrIe, hdoneIe, Bool.or_eq_false_iff] at h0
  obtain ⟨herr, hdone⟩ := h0
  rcases (irq_eq_true_iff s).1 h1 with ⟨h, hi⟩ | ⟨h, hi⟩
  · rw [hi, Bool.and_true] at herr
    exact .inl ⟨h, herr⟩
  · rw [hi, Bool.and_true] at hdone
    exact .inr ⟨h, hdone⟩

/-- Settles O27: irq is a function of two sources and two enables, and each of these falls only by its own event. -/
theorem irqIsTheLevelOfTheEnabledSources : Obligations.IrqIsTheLevelOfTheEnabledSources := by
  obtain ⟨-, statusWrite, -⟩ := statusRegisterFields
  obtain ⟨-, ctrlWrite, -⟩ := ctrlRegisterFields
  obtain ⟨-, -, errFalls⟩ := errIsClearedOnlyByTheHostOrReset
  obtain ⟨-, doneFalls, -⟩ := doneIsSetOnlyByCompletion
  refine fun s => ⟨irq_eq_true_iff s, fun v rest ha h0 h1 h2 => ⟨_, ctrlWrite s v rest ha h0, ?_, rfl, rfl⟩,
    fun v rest ha h2 h3 => ⟨_, statusWrite s v rest ha, ?_⟩, fun t h h1 h0 => ?_⟩
  · simp only [State.irq, h1, h2, Bool.and_false, Bool.or_false]
  · simp only [State.irq, h2, h3, Bool.not_true, Bool.and_false, Bool.false_and, Bool.or_false]
  · rcases step_enables_cases h with ⟨e, rest, ha, he | he⟩ | hk
    · exact ⟨e, rest, ha, .inl he⟩
    · exact ⟨e, rest, ha, .inr (.inr (.inr he))⟩
    rcases source_falls_of_irq_falls hk h1 h0 with hfall | ⟨hdone1, hdone0⟩
    · obtain ⟨e, rest, ha, he | he⟩ := errFalls s t h (.inl hfall)
      · exact ⟨e, rest, ha, .inl he⟩
      · exact ⟨e, rest, ha, .inr (.inl he)⟩
    · obtain ⟨e, rest, ha, he | he⟩ := doneFalls s t h hdone1 hdone0
      · exact ⟨e, rest, ha, .inl he⟩
      · exact ⟨e, rest, ha, .inr (.inr (.inl he))⟩

end Sys2Proof.Machine
end

section
/-! The reset state as the host finds it (70_reset_and_hazards.md R261): what each register reads, and that the two
commands that read the table find no configuration. -/

namespace Sys2Proof.Machine

open Sys2Proof.Spec

/-- After a reset every word of the register map reads 0 but ID. -/
theorem readsAs_resetEngine (s : State) {off : Nat} (h : off < 1024) (h4 : off % 4 = 0) :
    ReadsAs s.resetEngine off (if off = 0x000 then idWord else 0) := by
  refine readsAs_of_answerable (answerable_of_idle rfl h h4) ?_
  rw [readReg_resetEngine]
  simp only [portReg_eq_id]

/-- The reset state with these events ahead is what a reset leaves. -/
theorem resetEngine_reset_withAgenda (events : List Event) :
    (State.reset.withAgenda events).resetEngine = { State.reset with agenda := events } := rfl

/-- Settles O21: the reset state is what a reset leaves, so it reads as one, and it has no configuration. -/
theorem resetStateReadsAsTheSpecSays : Obligations.ResetStateReadsAsTheSpecSays := by
  obtain ⟨-, -, -, -, irqLevel⟩ := ctrlRegisterFields
  obtain ⟨-, -, irqOff⟩ := irqLevel State.reset
  obtain ⟨-, lookup⟩ := lookupReadsTheTable
  obtain ⟨-, slide⟩ := slideRollsEveryChannel
  refine ⟨resetFrom_resetEngine State.reset, rfl, irqOff rfl rfl, ?id, ?status, ?cmd, fun rd ch a b => ?lookup,
    fun a b => ?slide⟩
  case id | status | cmd =>
    rw [← resetEngine_reset_withAgenda]
    exact readsAs_resetEngine _ (by decide) (by decide)
  case lookup =>
    obtain ⟨-, checks⟩ := lookup rd ch a b
    obtain ⟨unconfigured, -⟩ := checks State.reset
    exact unconfigured rfl
  case slide =>
    obtain ⟨-, checks⟩ := slide a b
    obtain ⟨unconfigured, -⟩ := checks State.reset
    exact unconfigured rfl

end Sys2Proof.Machine
end

section
/-! The encoding read both ways (30_encoding.md R113, R117): the words of RAND and CONFIG, and the two round trips. -/

namespace Sys2Proof

open Sys2Proof.Spec

/-! ## The words of RAND and CONFIG -/

theorem rand_hasWord (rd : Reg) (sw : Width) : HasWord (.rand rd sw) (wordR 0x06 rd 0 0 0 (swNumber sw)) :=
  hasWord_wordR (op := .rand) (rs1 := 0) (rs2 := 0) (rs3 := 0)
    (formatR_matches BitVec.and_zero BitVec.zero_and BitVec.zero_and BitVec.zero_and BitVec.and_zero)
    (by simp [Op.instr, formatR_sw])

theorem wselNumber_eq (wsel : Option WSel) : wselNumber wsel = (WSel.fieldCode wsel).toNat := by
  rcases wsel with _ | ws
  · rfl
  · cases ws <;> rfl

/-- Format C as bits and as a number. -/
theorem formatC_eq_wordC (rt rb : BitVec 4) (e : BitVec 1) (wsel : Option WSel) :
    formatC Op.config.byte rt rb e (WSel.fieldCode wsel) = wordC rt.toNat rb.toNat e.toNat (wselNumber wsel) := by
  have h := formatC_toNat Op.config.byte rt rb e (WSel.fieldCode wsel)
  rw [← wselNumber_eq] at h
  exact (BitVec.setWidth_eq _).symm.trans ((BitVec.ofNat_toNat 32 _).symm.trans (congrArg (BitVec.ofNat 32) h))

theorem formatC_e (op : BitVec 8) (rt rb : BitVec 4) (e : BitVec 1) (wsel : BitVec 3) :
    (formatC op rt rb e wsel).extractLsb' 11 1 = e := by
  apply extractLsb'_ext
  intro i hi
  rw [formatC_getLsbD]
  interval_cases i; rfl

theorem formatC_reserved (op : BitVec 8) (rt rb : BitVec 4) (e : BitVec 1) (wsel : BitVec 3) :
    (formatC op rt rb e wsel).extractLsb' 12 4 = 0#4 ∧ (formatC op rt rb e wsel).extractLsb' 0 8 = 0#8 := by
  constructor <;>
  · apply extractLsb'_ext
    intro i hi
    rw [formatC_getLsbD]
    interval_cases i <;> rfl

/-- A word of Format C matches CONFIG's row of its E bit if the row's mask leaves 0 of the base field (R111). -/
theorem formatC_matches (rt : BitVec 4) {rb : BitVec 4} (wsel : BitVec 3) (e : Bool)
    (hrb : rb &&& (Op.config.mask e).extractLsb' 16 4 = 0) :
    formatC Op.config.byte rt rb (BitVec.ofBool e) wsel &&& Op.config.mask e = Op.config.pattern e := by
  obtain ⟨h12, h0⟩ := formatC_reserved Op.config.byte rt rb (BitVec.ofBool e) wsel
  rw [show Op.config.pattern e = formatC Op.config.byte 0 0 (BitVec.ofBool e) 0 by cases e <;> rfl]
  symm
  apply formatC_of_fields <;> rw [BitVec.extractLsb'_and]
  · rw [formatC_byte]
    cases e <;> rfl
  · cases e <;> exact BitVec.and_zero
  · rw [formatC_rb, hrb]
  · rw [h12, BitVec.zero_and]
  · rw [formatC_e]
    cases e <;> rfl
  · cases e <;> exact BitVec.and_zero
  · rw [h0, BitVec.zero_and]

theorem formatC_explicit (op : BitVec 8) (rt rb : BitVec 4) (e : Bool) (wsel : BitVec 3) :
    (formatC op rt rb (BitVec.ofBool e) wsel).getLsbD 11 = e := by
  rw [formatC_getLsbD]
  cases e <;> rfl

theorem config_hasWord (rt rb : Reg) (wsel : Option WSel) :
    HasWord (.config rt rb wsel) (wordC rt rb 1 (wselNumber wsel)) := by
  have hw := formatC_eq_wordC (regBits rt) (regBits rb) (BitVec.ofBool true) wsel
  rw [regBits_toNat, regBits_toNat] at hw
  rw [show wordC rt rb 1 _ = _ from hw.symm]
  refine hasWord_of_decode ((decode_of_row (formatC_matches _ _ true BitVec.and_zero)).trans ?_)
  rw [Op.instr, if_pos (formatC_explicit ..), regField_of_bits (formatC_rt ..), regField_of_bits (formatC_rb ..),
    formatC_wsel, WSel.ofCode_fieldCode]

theorem configRandom_hasWord (rt : Reg) (wsel : Option WSel) :
    HasWord (.configRandom rt wsel) (wordC rt 0 0 (wselNumber wsel)) := by
  have hw := formatC_eq_wordC (regBits rt) 0 (BitVec.ofBool false) wsel
  rw [regBits_toNat] at hw
  rw [show wordC rt 0 0 _ = _ from hw.symm]
  refine hasWord_of_decode ((decode_of_row (formatC_matches _ _ false BitVec.zero_and)).trans ?_)
  rw [Op.instr, formatC_explicit, if_neg Bool.false_ne_true, regField_of_bits (formatC_rt ..), formatC_wsel,
    WSel.ofCode_fieldCode]

/-! ## Pairs -/

theorem isEven_iff (r : Reg) : Reg.isEven r = true ↔ r.val % 2 = 0 := by simp [Reg.isEven]

/-- A pair field whose lowest bit the row fixes at 0 names an even register (R112). -/
theorem isEven_regField {w : Word} {lo : Nat} (h : w.extractLsb' lo 1 = 0#1) : Reg.isEven (regField lo w) = true := by
  have h0 := field_toNat h
  have hval : (regField lo w).val = w.toNat / 2 ^ lo % 2 ^ 4 := field_toNat rfl
  rw [BitVec.toNat_ofNat] at h0
  rw [isEven_iff, hval]
  omega

/-- The command of a word that matches the row of its opcode is well formed. -/
theorem wf_instr {w : Word} {op : Op} (hm : w &&& op.mask (w.getLsbD 11) = op.pattern (w.getLsbD 11)) :
    (op.instr w).wf = true := by
  cases op with
  | reduce => exact isEven_regField (field_of_row hm 16 1 (by cases w.getLsbD 11 <;> decide))
  | muladd => exact isEven_regField (field_of_row hm 20 1 (by cases w.getLsbD 11 <;> decide))
  | config => rw [Op.instr]; split <;> rfl
  | _ => rfl

/-! ## The round trips -/

theorem decode_encode_of_hasWord {i : Instr} {w : Word} (h : HasWord i w) : decode (encode i) = .ok i := by
  obtain ⟨he, hd⟩ := h
  rw [he, hd]

/-- Settles O2: the word each command's format gives is the one its row matches, and its fields read back. -/
theorem decodeOfEncodeIsTheCommand : Obligations.DecodeOfEncodeIsTheCommand := by
  intro i hwf
  cases i with
  | nop => exact decode_of_row (op := .nop) (e := false) rfl
  | reduce rd rs1 sw => exact decode_encode_of_hasWord (reduce_hasWord rd sw ((isEven_iff rs1).1 hwf))
  | muladd rd rs1 rs2 rs3 sw =>
    exact decode_encode_of_hasWord (muladd_hasWord rs1 rs2 rs3 sw ((isEven_iff rd).1 hwf))
  | muladdr rd rs1 rs2 rs3 sw => exact decode_encode_of_hasWord (muladdr_hasWord rd rs1 rs2 rs3 sw)
  | pow rd rs1 rs2 sw => exact decode_encode_of_hasWord (pow_hasWord rd rs1 rs2 sw)
  | inv rd rs1 sw => exact decode_encode_of_hasWord (inv_hasWord rd rs1 sw)
  | rand rd sw => exact decode_encode_of_hasWord (rand_hasWord rd sw)
  | config rt rb wsel => exact decode_encode_of_hasWord (config_hasWord rt rb wsel)
  | configRandom rt wsel => exact decode_encode_of_hasWord (configRandom_hasWord rt wsel)
  | lookup rd ch a b => exact decode_encode_of_hasWord (lookup_hasWord rd ch a b)
  | fill b => exact decode_encode_of_hasWord (fill_hasWord b)
  | slide a b => exact decode_encode_of_hasWord (slide_hasWord a b)
  | fpclr => exact decode_encode_of_hasWord fpclr_hasWord
  | fpget rd => exact decode_encode_of_hasWord (fpget_hasWord rd)
  | fpput rs1 => exact decode_encode_of_hasWord (fpput_hasWord rs1)
  | cmp rd rs1 rs2 => exact decode_encode_of_hasWord (cmp_hasWord rd rs1 rs2)
  | pack2 rd => exact decode_encode_of_hasWord (pack2_hasWord rd)

/-- Settles O3: a word that is read matches its row, which fixes what the pair fields need and what no field holds. -/
theorem encodeOfDecodeIsTheWord : Obligations.EncodeOfDecodeIsTheWord := by
  intro w i hd
  refine ⟨?_, encode_of_decode hd⟩
  rcases decode_cases w with ⟨-, h⟩ | ⟨op, -, ⟨hm, h⟩ | ⟨-, h⟩⟩
  · cases h.symm.trans hd
  · cases h.symm.trans hd
    exact wf_instr hm
  · cases h.symm.trans hd

/-- Settles O1: each word is decoded by running the decoder. -/
theorem wordsOfTheTestVectorsDecode : Obligations.WordsOfTheTestVectorsDecode := by
  unfold Obligations.WordsOfTheTestVectorsDecode
  decide

end Sys2Proof
end

section
/-! The step as a whole: it always answers a next state, it runs the decoded command, it keeps the invariant, and it
changes the configuration only by a CONFIG or a reset (10_state.md R28, R30, R36, 41_table.md R178). -/

namespace Sys2Proof.Machine

open Sys2Proof.Spec

/-! ## A next state -/

theorem exec_answers (i : Instr) (s : State) : ∃ t, exec i s = .next t := by
  rcases exec_cases i s with ⟨e, -, h⟩ | ⟨u, -, h⟩
  · exact ⟨_, h⟩
  · exact ⟨_, h⟩

theorem engineStep_answers (s : State) : ∃ t, engineStep s = .next t := by
  rcases engineStep_cases s with ⟨-, h⟩ | ⟨w, e, -, -, -, h⟩ | ⟨w, i, e, -, -, -, h⟩ | ⟨w, i, u, -, -, -, h⟩
  · exact ⟨_, h⟩
  · exact ⟨_, h⟩
  · exact ⟨_, h⟩
  · exact ⟨_, h⟩

/-- Settles O7: the engine's turn, a reset and an access each answer a next state. -/
theorem everyStepAnswersANextState : Obligations.EveryStepAnswersANextState := by
  intro s
  rcases step_cases s with ⟨-, h⟩ | ⟨rest, -, h⟩ | ⟨rest, -, h⟩ | ⟨a, rest, -, -, -, h⟩ | ⟨a, rest, -, -, h⟩
  · exact h ▸ engineStep_answers s
  · exact h ▸ engineStep_answers _
  · exact ⟨_, h⟩
  · exact h ▸ engineStep_answers s
  · exact ⟨_, h⟩

/-! ## The engine's turn -/

theorem step_of_nothing_ahead {s : State} (ha : s.agenda = []) : step s = engineStep s := by
  simp only [step, ha]

/-- A word whose completion is the next event is executed by the very next step. -/
theorem step_withFetchWord (s : State) (w : Word) :
    step (s.withFetchWord 32 w.toNat) = engineStep { s with busy := some w } := by
  rw [State.withFetchWord, BitVec.ofNat_toNat, BitVec.setWidth_eq]
  exact step_complete rfl

/-- Settles O6: in each of these states the step is the engine's turn, which executes the word it holds. -/
theorem stepRunsTheDecodedCommand : Obligations.StepRunsTheDecodedCommand := by
  refine ⟨fun s w i hb hd => ⟨fun ha => ?_, fun rest ha => ?_, fun a rest ha hal hh => ?_⟩, fun s w i hd => ?_,
    fun s w e hb hd ha => ?_⟩
  · rw [step_of_nothing_ahead ha, engineStep_of_decode hb hd]
  · rw [step_complete ha]
    exact engineStep_of_decode hb hd
  · rw [step_of_busy_held ha (by rw [hb]; simp) ((held_of_aligned hal).trans hh), engineStep_of_decode hb hd]
  · rw [step_withFetchWord]
    exact engineStep_of_decode rfl hd
  · rw [step_of_nothing_ahead ha]
    exact engineFails_of_decode hd s hb

/-! ## The invariant -/

/-- Whether a state is configured is told by its configuration alone. -/
theorem configurationInv_of_cfg {s t : State} (h : t.cfg = s.cfg) (hs : ConfigurationInv s) : ConfigurationInv t := by
  unfold ConfigurationInv Configured ChannelConfigured ChannelUnused State.base State.maxExp State.entry State.modulus
    State.channels at hs ⊢
  rwa [h]

/-- A state with no error in its record and a configuration of the invariant meets it. -/
theorem inv_of_noError {t : State} (hc : ConfigurationInv t) (he : t.err = false) (hcode : t.errCode = .noError) :
    Inv t :=
  ⟨hc, ⟨fun h => (by cases he.symm.trans h), fun h => absurd hcode h⟩, fun _ => he⟩

theorem inv_resetEngine (s : State) : Inv s.resetEngine := inv_of_noError (.inr rfl) rfl rfl

theorem inv_writeReg {s : State} (hi : Inv s) (w : Word) (r : PortReg) : Inv (s.writeReg w r) := by
  obtain ⟨hc, hrec, hbusy⟩ := hi
  rcases writeReg_cases w s r with he | ⟨-, -, he⟩ | ⟨-, -, he⟩ | ⟨-, -, -, he⟩ | ⟨-, -, -, he⟩ | ⟨-, -, -, he⟩ |
    ⟨-, h0, he⟩ | ⟨i, j, -, he⟩ | ⟨c, j, -, he⟩ <;> rw [he]
  case inr.inl => exact inv_resetEngine s
  case inr.inr.inr.inl | inr.inr.inr.inr.inl => exact inv_of_noError (configurationInv_of_cfg rfl hc) rfl rfl
  case inr.inr.inr.inr.inr.inr.inl => exact ⟨configurationInv_of_cfg rfl hc, hrec, fun _ => h0⟩
  all_goals exact ⟨configurationInv_of_cfg rfl hc, hrec, hbusy⟩

theorem inv_completeAccess {s : State} (hi : Inv s) (a : Access) : Inv (s.completeAccess a) := by
  rcases completeAccess_cases a s with ⟨-, h⟩ | ⟨-, -, h⟩ | ⟨-, -, h⟩ <;> rw [h]
  · exact hi
  · exact hi
  · exact inv_writeReg hi a.wdata a.reg

theorem inv_raiseError {s : State} (hi : Inv s) (w : Word) {e : ErrCode} (he : e ≠ .noError) :
    Inv (s.raiseError w e) := by
  obtain ⟨hc, -⟩ := hi
  exact ⟨configurationInv_of_cfg rfl hc, ⟨fun _ => he, fun _ => rfl⟩, fun hb => absurd rfl hb⟩

theorem inv_complete {s u : State} {i : Instr} (hi : Inv s) (hw : Writes i s u) (w : Word) : Inv (u.complete w) := by
  obtain ⟨hc, hrec, -⟩ := hi
  obtain ⟨⟨herr, hcode, -⟩, hcfg⟩ := hw
  refine ⟨?_, ?_, fun hb => absurd rfl hb⟩
  · rcases hcfg with hcfg | ⟨hconf, -⟩
    · exact configurationInv_of_cfg hcfg hc
    · exact configurationInv_of_cfg rfl (.inl hconf)
  · unfold ErrorRecordInv
    rw [complete_err, complete_errCode, herr, hcode]
    exact hrec

theorem inv_engineStep {s t : State} (hi : Inv s) (h : engineStep s = .next t) : Inv t := by
  rcases engineStep_cases s with ⟨-, hx⟩ | ⟨w, e, -, -, he, hx⟩ | ⟨w, i, e, -, -, he, hx⟩ | ⟨w, i, u, -, -, hu, hx⟩ <;>
    cases hx.symm.trans h
  · exact hi
  · exact inv_raiseError hi w he
  · exact inv_raiseError hi (encode i) he
  · exact inv_complete hi hu (encode i)

/-- Settles O59: the reset state holds the reset configuration and no error. -/
theorem resetStateMeetsTheInvariant : Obligations.ResetStateMeetsTheInvariant := fun _ _ =>
  inv_of_noError (.inr rfl) rfl rfl

/-- Settles O60: of everything a step can do, an error sets ERR and ERRCODE together and ends the command, a completion
leaves the configuration or a built one, a reset the reset one, and an access clears ERR and ERRCODE together and
accepts a command only while ERR = 0. -/
theorem everyStepKeepsTheInvariant : Obligations.EveryStepKeepsTheInvariant := by
  intro s t hi h
  rcases step_cases s with ⟨-, hx⟩ | ⟨rest, -, hx⟩ | ⟨rest, -, hx⟩ | ⟨a, rest, -, -, -, hx⟩ | ⟨a, rest, -, -, hx⟩
  · exact inv_engineStep hi (hx.symm.trans h)
  · exact inv_engineStep (s := s.withAgenda rest) hi (hx.symm.trans h)
  · cases hx.symm.trans h
    exact inv_resetEngine _
  · exact inv_engineStep hi (hx.symm.trans h)
  · cases hx.symm.trans h
    exact inv_completeAccess (s := s.withAgenda rest) hi a

/-! ## Who writes the configuration -/

theorem isConfig_eq_true {i : Instr} (h : IsConfig i) : isConfig i = true := by
  rcases h with ⟨rt, rb, w, rfl⟩ | ⟨rt, w, rfl⟩
  · rfl
  · rfl

/-- The engine's turn keeps the configuration, or completes a CONFIG. -/
theorem cfg_engineStep {s t : State} (h : engineStep s = .next t) :
    CfgKept s t ∨ ∃ w i, s.busy = some w ∧ decode w = .ok i ∧ isConfig i = true ∧ t.cfg.valid = true ∧
      t.done = true ∧ t.lastCmd = w := by
  rcases engineStep_cases s with ⟨-, hx⟩ | ⟨w, e, -, -, -, hx⟩ | ⟨w, i, e, -, -, -, hx⟩ |
    ⟨w, i, u, hb, hd, ⟨-, hcfg⟩, hx⟩ <;> cases hx.symm.trans h
  · exact .inl rfl
  · exact .inl rfl
  · exact .inl rfl
  · rcases hcfg with hcfg | ⟨⟨hvalid, -⟩, hconf⟩
    · exact .inl hcfg
    · exact .inr ⟨w, i, hb, hd, isConfig_eq_true hconf, hvalid, rfl, encode_of_decode hd⟩

/-- A completed access keeps the configuration, or is a soft reset. -/
theorem cfg_completeAccess (a : Access) (s : State) :
    CfgKept s (s.completeAccess a) ∨
      (IsReset (.access a) ∧ (s.completeAccess a).cfg = Configuration.reset) := by
  rcases completeAccess_cases a s with ⟨-, hx⟩ | ⟨-, -, hx⟩ | ⟨hl, hw, hx⟩ <;> rw [hx]
  · exact .inl rfl
  · exact .inl rfl
  rcases writeReg_cases a.wdata s a.reg with he | ⟨hr, hv, he⟩ | ⟨-, -, he⟩ | ⟨-, -, -, he⟩ | ⟨-, -, -, he⟩ |
    ⟨-, -, -, he⟩ | ⟨-, -, he⟩ | ⟨_, _, -, he⟩ | ⟨_, _, -, he⟩ <;> rw [he]
  · exact .inl rfl
  · exact .inr ⟨⟨(legal_iff a).1 hl, hw, portReg_eq_ctrl hr, hv⟩, rfl⟩
  all_goals exact .inl rfl

/-- Settles O41: of everything a step can do only a CONFIG that completes and a reset do not keep the configuration. -/
theorem onlyConfigWritesTheConfiguration : Obligations.OnlyConfigWritesTheConfiguration := by
  intro s t h hne
  rcases step_cases s with ⟨-, hx⟩ | ⟨rest, -, hx⟩ | ⟨rest, ha, hx⟩ | ⟨a, rest, -, -, -, hx⟩ | ⟨a, rest, ha, -, hx⟩
  · exact .inl ((cfg_engineStep (hx.symm.trans h)).resolve_left hne)
  · exact .inl ((cfg_engineStep (s := s.withAgenda rest) (hx.symm.trans h)).resolve_left hne)
  · cases hx.symm.trans h
    exact .inr ⟨rfl, _, rest, ha, trivial⟩
  · exact .inl ((cfg_engineStep (hx.symm.trans h)).resolve_left hne)
  · cases hx.symm.trans h
    obtain ⟨hr, hcfg⟩ := (cfg_completeAccess a (s.withAgenda rest)).resolve_left hne
    exact .inr ⟨hcfg, _, rest, ha, hr⟩

end Sys2Proof.Machine
end

section
/-! Accesses one after the other: reads and writes made twice, accesses that wait for the busy command, and the STATUS
read beside a command's completion (20_memory.md R69, R70, R75). -/

namespace Sys2Proof.Machine

open Sys2Proof.Spec

/-! ## Reads -/

/-- What a read register shows does not depend on the port's last answer. -/
@[simp] theorem readReg_respond (s : State) (a : Response) (r : PortReg) : (s.respond a).readReg r = s.readReg r := by
  cases r <;> rfl

/-- The answer to a read: its register's word, or 0 with a bus error. -/
def readAnswer (a : Access) (s : State) : Response :=
  if a.legal then ⟨some (s.readReg a.reg), false⟩ else ⟨some 0, true⟩

theorem completeAccess_eq_readAnswer {a : Access} (hw : a.write = false) (s : State) :
    s.completeAccess a = s.respond (readAnswer a s) := by
  unfold readAnswer
  rcases completeAccess_cases a s with ⟨hl, h⟩ | ⟨hl, -, h⟩ | ⟨-, h1, -⟩
  · simp [h, hl, hw]
  · simp [h, hl]
  · cases hw.symm.trans h1

/-- An idle engine answers every access at once. -/
theorem step_access_of_idle {s : State} {a : Access} {rest : List Event} (ha : s.agenda = .access a :: rest)
    (hb : s.busy = none) : step s = .next ((s.withAgenda rest).completeAccess a) :=
  step_access ha (by rw [State.busyBit, hb]; rfl)

theorem step_read_of_idle {s : State} {a : Access} {rest : List Event} (ha : s.agenda = .access a :: rest)
    (hw : a.write = false) (hb : s.busy = none) :
    step s = .next { s with agenda := rest, response := some (readAnswer a s) } := by
  rw [step_access_of_idle ha hb, completeAccess_eq_readAnswer hw, readAnswer, readReg_withAgenda]
  rfl

/-- Settles O16: the answer to a read is told by what the read leaves unchanged. -/
theorem readsHaveNoSideEffect : Obligations.ReadsHaveNoSideEffect := by
  intro s a rest ha hw hb
  refine ⟨readAnswer a s, step_read_of_idle ha hw hb, ?_⟩
  have again := step_read_of_idle (s := (s.withAgenda (.access a :: rest)).respond (readAnswer a s)) rfl hw hb
  rwa [show readAnswer a ((s.withAgenda (.access a :: rest)).respond (readAnswer a s)) = readAnswer a s by
    unfold readAnswer; simp] at again

/-! ## Writes -/

/-- A replaced word replaced by itself. -/
theorem setValWord_idem (v : Val) (j : Nat) (w : Word) : setValWord (setValWord v j w) j w = setValWord v j w := by
  apply BitVec.eq_of_getLsbD_eq
  intro i hi
  simp only [getLsbD_setValWord _ _ _ hi]
  split_ifs <;> rfl

theorem setX_setValWord_idem (s : State) (i j : Nat) (w : Word) :
    (s.setX i (setValWord (s.getX i) j w)).setX i (setValWord ((s.setX i (setValWord (s.getX i) j w)).getX i) j w)
      = s.setX i (setValWord (s.getX i) j w) := by
  by_cases hi : i < 16
  · rw [getX_setX_same s _ hi, setValWord_idem]
    simp [State.setX]
  · have hout (v : Val) (s : State) : s.setX i v = s := by
      rw [State.setX, Vector.setIfInBounds_eq_of_size_le (Nat.le_of_not_lt hi)]
    simp only [hout]

theorem setFp_setValWord_idem (s : State) (c j : Nat) (w : Word) :
    (s.setFp c (setValWord (s.getFp c) j w)).setFp c
        (setValWord ((s.setFp c (setValWord (s.getFp c) j w)).getFp c) j w)
      = s.setFp c (setValWord (s.getFp c) j w) := by
  by_cases hc : c < 4
  · rw [getFp_setFp_same s _ hc, setValWord_idem]
    simp [State.setFp, State.setFps]
  · have hout (v : Val) (s : State) : s.setFp c v = s := by
      rw [State.setFp, State.setFps, Vector.setIfInBounds_eq_of_size_le (Nat.le_of_not_lt hc)]
    simp only [hout]

/-- A write of any register but CMD, made twice, leaves what it leaves made once. -/
theorem writeReg_idem (w : Word) (s : State) {r : PortReg} (hr : r ≠ .cmd) :
    (s.writeReg w r).writeReg w r = s.writeReg w r := by
  cases r with
  | cmd => exact absurd rfl hr
  | ctrl =>
    simp only [State.writeReg, State.writeCtrl]
    split <;> rfl
  | status =>
    simp only [State.writeReg, writeStatus_eq]
    cases w.getLsbD 2 <;> cases w.getLsbD 3 <;> simp
  | x i j => exact setX_setValWord_idem s i j w
  | fp c j => exact setFp_setValWord_idem s c j w
  | _ => rfl

/-- A register write neither reads nor writes the events ahead and the port's answer. -/
theorem writeReg_port (w : Word) (s : State) (r : PortReg) (events : List Event) (a : Option Response) :
    State.writeReg w { s with agenda := events, response := a } r
      = { s.writeReg w r with agenda := events, response := a } := by
  cases r with
  | ctrl =>
    simp only [State.writeReg, State.writeCtrl]
    split <;> rfl
  | status => simp only [State.writeReg, writeStatus_eq]
  | cmd =>
    simp only [State.writeReg, State.offerCommand]
    split <;> rfl
  | _ => rfl

/-- Only offset 0x00C names CMD. -/
theorem portReg_eq_cmd {off : Nat} (h : portReg off = .cmd) : off = 0x00C := by
  have := portReg_writableAt off
  rwa [h] at this

/-- An access that is no CMD access leaves the busy command, or is a soft reset. -/
theorem busy_completeAccess {a : Access} (hc : a.legal = true → a.reg ≠ .cmd) (s : State) :
    (s.completeAccess a).busy = s.busy ∨ (IsReset (.access a) ∧ (s.completeAccess a).busy = none) := by
  rcases completeAccess_cases a s with ⟨-, hx⟩ | ⟨-, -, hx⟩ | ⟨hl, hw, hx⟩ <;> rw [hx]
  · exact .inl rfl
  · exact .inl rfl
  rcases writeReg_cases a.wdata s a.reg with he | ⟨hr, hv, he⟩ | ⟨-, -, he⟩ | ⟨-, -, -, he⟩ | ⟨-, -, -, he⟩ |
    ⟨-, -, -, he⟩ | ⟨hr, -⟩ | ⟨_, _, -, he⟩ | ⟨_, _, -, he⟩
  case inr.inr.inr.inr.inr.inr.inr.inr.inl => exact absurd hr (hc hl)
  all_goals rw [he]
  · exact .inl rfl
  · exact .inr ⟨⟨(legal_iff a).1 hl, hw, portReg_eq_ctrl hr, hv⟩, rfl⟩
  all_goals exact .inl rfl

/-- A completed write, made again with other events ahead, changes the events ahead alone. -/
theorem completeAccess_write_again {a : Access} (hw : a.write = true) (hc : a.legal = true → a.reg ≠ .cmd) (s : State)
    (events : List Event) :
    ((s.completeAccess a).withAgenda events).completeAccess a = (s.completeAccess a).withAgenda events := by
  by_cases hal : Aligned a
  · rw [completeAccess_of_write hal hw, completeAccess_of_write hal hw]
    have := writeReg_port a.wdata (s.writeReg a.wdata a.reg) a.reg events (some ⟨none, false⟩)
    rw [writeReg_idem a.wdata s (hc ((legal_iff a).2 hal))] at this
    exact congrArg (State.respond ⟨none, false⟩) this
  · rw [completeAccess_of_misaligned hal, completeAccess_of_misaligned hal]
    rfl

/-- Settles O17: the second write finds an idle engine again and its register as it leaves it. -/
theorem writesAreIdempotent : Obligations.WritesAreIdempotent := by
  intro s a rest ha hw hcmd hb
  have hc (hl : a.legal = true) : a.reg ≠ .cmd := fun hr => hcmd ⟨(legal_iff a).1 hl, portReg_eq_cmd hr⟩
  refine ⟨_, step_access_of_idle ha hb, ?_⟩
  rw [step_access_of_idle (completeAccess_agenda ..), completeAccess_write_again hw hc]
  · rfl
  · rcases busy_completeAccess hc (s.withAgenda (.access a :: rest)) with h | ⟨-, h⟩
    · exact h.trans hb
    · exact h

/-! ## Waiting accesses -/

theorem engineStep_response {s t : State} (h : engineStep s = .next t) : t.response = s.response := by
  rcases engineStep_next_cases h with ⟨-, rfl⟩ | ⟨w, e, -, -, hw⟩ | ⟨w, i, -, -, hw⟩
  · rfl
  · obtain ⟨-, -, -, -, -, -, -, -, -, -, -, -, hr, -⟩ := hw
    exact hr
  · obtain ⟨-, -, -, -, -, -, -, -, -, hr⟩ := hw
    exact hr

theorem completeAccess_response_ne_none (a : Access) (s : State) : (s.completeAccess a).response ≠ none := by
  obtain ⟨r, hr⟩ := completeAccess_response a s
  simp [hr]

/-- Settles O18: a held access gives the engine its turn, which leaves it idle with the access still next; any other
access is answered, and is no CMD access. -/
theorem heldAccessesWaitForTheBusyCommand : Obligations.HeldAccessesWaitForTheBusyCommand := by
  intro s w a rest hb ha
  refine ⟨fun hal hheld => ?_, fun hfree => ?_⟩
  · obtain ⟨t, ht⟩ := engineStep_answers s
    obtain ⟨hidle, hahead⟩ := engineStep_idle ht
    have hstep : step s = engineStep s :=
      step_of_busy_held ha (by rw [hb]; exact Option.some_ne_none w) ((held_of_aligned hal).trans hheld)
    exact ⟨t, _, hstep.trans ht, ht, hahead, engineStep_response ht, hidle,
      step_access_of_idle (hahead.trans ha) hidle, completeAccess_agenda .., completeAccess_response_ne_none _ _⟩
  · have hheld : a.held = false := by
      by_cases hal : Aligned a
      · rw [held_of_aligned hal]
        exact Bool.eq_false_iff.2 fun h => hfree ⟨hal, h⟩
      · exact held_of_misaligned hal
    have hc (hl : a.legal = true) : a.reg ≠ .cmd := fun hr => by
      rw [Access.held, hl, hr] at hheld
      cases hheld
    refine ⟨_, step_access ha (by rw [hheld, Bool.and_false]), completeAccess_agenda ..,
      completeAccess_response_ne_none _ _, ?_⟩
    rcases busy_completeAccess hc (s.withAgenda rest) with h | ⟨h, -⟩
    · exact .inl (h.trans hb)
    · exact .inr h

/-! ## STATUS beside a completion -/

theorem bits_statusWord_busy (s : State) : bits s.statusWord 0 1 = s.busyBit.toNat := by
  have hb := Bool.toNat_le s.busyBit
  rw [bits, statusWord_eq_ofNat, BitVec.toNat_ofNat]
  omega

/-- A STATUS read is answered at once, and its bit 0 is BUSY. -/
theorem step_statusRead {s : State} {rest : List Event} (ha : s.agenda = memRead 0x008 :: rest) :
    ∃ u v, step s = .next u ∧ u.response = some ⟨some v, false⟩ ∧ bits v 0 1 = s.busyBit.toNat :=
  ⟨_, s.statusWord, step_memRead (answerable_low s (by decide) (by decide)) ha, rfl, bits_statusWord_busy s⟩

/-- Settles O19: the accepted command is busy when STATUS is read at once, and ended when its completion comes first. -/
theorem statusReadShowsBothOrders : Obligations.StatusReadShowsBothOrders := by
  intro s w rest hb he
  refine ⟨fun ha => ?_, fun ha => ?_⟩ <;> obtain ⟨-, -, accepts⟩ := cmdWriteOffersTheCommand s w _ ha <;>
    obtain ⟨t, ht, rfl, hbusy, -⟩ := accepts hb he
  · obtain ⟨u, v, hu, hr, hv⟩ := step_statusRead (s := { answered s _ none false with busy := some w }) rfl
    exact ⟨_, u, v, ht, hu, hr, hv⟩
  · obtain ⟨t', ht'⟩ := engineStep_answers ({ answered s (.complete :: memRead 0x008 :: rest) none false with
      busy := some w }.withAgenda (memRead 0x008 :: rest))
    obtain ⟨hidle, hahead⟩ := engineStep_idle ht'
    obtain ⟨u, v, hu, hr, hv⟩ := step_statusRead hahead
    rw [State.busyBit, hidle] at hv
    exact ⟨_, t', u, v, ht, (step_complete rfl).trans ht', hu, hr, hv⟩

end Sys2Proof.Machine
end

section
/-! The laws of the arithmetic unit beyond single commands: folding, REDUCE after MULADD, and what the commands do not
read (40_arith.md R140, R143, R146). -/

namespace Sys2Proof.Machine

open Sys2Proof.Spec

/-! ## Folding -/

/-- A fold takes a multiple of 2^s - 1 off its operand. -/
theorem fold_add_mul (s v : Nat) : fold s v + v / 2 ^ s * (2 ^ s - 1) = v := by
  have hpos : 0 < 2 ^ s := Nat.two_pow_pos s
  have hmul : v / 2 ^ s + v / 2 ^ s * (2 ^ s - 1) = v / 2 ^ s * 2 ^ s := by
    rw [Nat.add_comm, ← Nat.mul_succ, Nat.succ_eq_add_one, Nat.sub_add_cancel hpos]
  rw [fold, Nat.add_assoc, hmul, Nat.mul_comm, Nat.mod_add_div]

theorem fold_mod (s v : Nat) : fold s v % (2 ^ s - 1) = v % (2 ^ s - 1) := by
  conv_rhs => rw [← fold_add_mul s v, Nat.add_mul_mod_self_right]

/-- The first fold of a value below (2^s - 1)², for s ≥ 1. -/
theorem fold_le_of_lt_sq {s v : Nat} (hv : v < (2 ^ s - 1) * (2 ^ s - 1)) : fold s v ≤ 2 * 2 ^ s - 3 := by
  have hpos : 0 < 2 ^ s := Nat.two_pow_pos s
  have hquot : v / 2 ^ s < 2 ^ s - 1 :=
    Nat.div_lt_of_lt_mul (hv.trans_le (Nat.mul_le_mul_right _ (Nat.sub_le ..)))
  have hrem := Nat.mod_lt v hpos
  rw [fold]
  omega

/-- The second fold of a value the first one leaves. -/
theorem fold_le_of_le {s u : Nat} (hs : 2 ≤ 2 ^ s) (hu : u ≤ 2 * 2 ^ s - 3) : fold s u ≤ 2 ^ s - 1 := by
  have hpos : 0 < 2 ^ s := by omega
  rw [fold]
  rcases Nat.lt_or_ge u (2 ^ s) with hlt | hge
  · rw [Nat.mod_eq_of_lt hlt, Nat.div_eq_of_lt hlt]
    omega
  · rw [Nat.mod_eq_sub_mod hge, Nat.mod_eq_of_lt (by omega), Nat.div_eq_of_lt_le (k := 1) (by omega) (by omega)]
    omega

/-- Settles O30: a fold keeps the residue, and two of them bring it down to [0, p]. -/
theorem twoFoldsAndACorrectionReduce : Obligations.TwoFoldsAndACorrectionReduce := by
  intro sw v hv
  have hbits : 2 ≤ 2 ^ sw.bits := by
    have := Width.bits_bounds sw
    exact Nat.le_self_pow (by omega) 2
  have hfirst : fold sw.bits v ≤ 2 * 2 ^ sw.bits - 3 := fold_le_of_lt_sq hv
  have hsecond : fold sw.bits (fold sw.bits v) ≤ sw.modulus := fold_le_of_le hbits hfirst
  have hmod : fold sw.bits (fold sw.bits v) % sw.modulus = v % sw.modulus := (fold_mod ..).trans (fold_mod ..)
  refine ⟨by rw [pow_succ]; omega, hsecond, ?_⟩
  rw [← hmod, foldReduce]
  split
  · next h => rw [h, Nat.mod_self]
  · next h => rw [Nat.mod_eq_of_lt (lt_of_le_of_ne hsecond h)]

/-! ## REDUCE after MULADD -/

/-- Settles O33: the exact sum MULADD leaves is below p², so REDUCE takes its residue, which is what MULADDR writes. -/
theorem reduceOfMuladdIsMuladdr : Obligations.ReduceOfMuladdIsMuladdr := by
  intro s rd rq rs1 rs2 rs3 sw heven h1 h2 h3
  obtain ⟨-, muladd⟩ := muladdWritesTheExactSum
  obtain ⟨-, muladd⟩ := muladd rd rs1 rs2 rs3 sw heven
  obtain ⟨-, muladd⟩ := muladd s
  obtain ⟨t, ht, -, hsum, -⟩ := muladd h1 h2 h3
  have hle : pairNat t rd ≤ sw.modulus * sw.modulus - sw.modulus := hsum ▸ mul_add_le h1 h2 h3
  obtain ⟨-, reduce⟩ := reduceWritesTheResidue
  obtain ⟨-, reduce⟩ := reduce rq rd sw heven
  obtain ⟨-, reduce⟩ := reduce t
  have hpos := Width.modulus_pos sw
  have hsq : sw.modulus ≤ sw.modulus * sw.modulus := Nat.le_mul_self _
  obtain ⟨u, hu, hc, hres, -⟩ := reduce (by omega)
  obtain ⟨-, muladdr⟩ := muladdrWritesTheResidueOfTheSum
  obtain ⟨-, muladdr⟩ := muladdr rq rs1 rs2 rs3 sw
  obtain ⟨-, muladdr⟩ := muladdr s
  obtain ⟨v, hv, -, hval, -⟩ := muladdr h1 h2 h3
  refine ⟨t, u, v, ht, hle, hu, hc, hv, BitVec.eq_of_toNat_eq ?_⟩
  exact hres.trans (hsum ▸ hval.symm)

/-! ## What arithmetic does not read -/

/-- The state with another configuration and other fingerprints. -/
def reconfigured (c : Configuration) (f : Vector Val 4) (s : State) : State := { s with cfg := c, fp := f }

/-- A command whose checks are the same with another configuration and other fingerprints, and whose writes pass them
by, ends the same way. -/
theorem runCommand_reconfigured {w : Word} {cs : List Check} {f g : State → State} {s : State} {c : Configuration}
    {fp : Vector Val 4} (hg : g (reconfigured c fp s) = reconfigured c fp (f s)) (hfp : FpKept s (f s))
    (hcfg : CfgKept s (f s)) :
    ∃ t, runCommand w cs f s = .next t ∧ runCommand w cs g (reconfigured c fp s) = .next (reconfigured c fp t) ∧
      FpKept s t ∧ CfgKept s t := by
  obtain ⟨e, he, hx⟩ | ⟨he, hx⟩ := runCommand_cases w cs f s
  · exact ⟨_, hx, runCommand_error g _ he, rfl, rfl⟩
  · exact ⟨_, hx, by rw [runCommand_ok g _ he, hg]; rfl, hfp, hcfg⟩

/-- A draw neither reads the configuration and the fingerprints nor writes them. -/
theorem drawNonzero_reconfigured (w : Width) (c : Configuration) (f : Vector Val 4) (s : State) :
    (reconfigured c f s).drawNonzero w = ((s.drawNonzero w).1, reconfigured c f (s.drawNonzero w).2) := by
  unfold State.drawNonzero
  rw [show (reconfigured c f s).rng = s.rng from rfl]
  split <;> rfl

theorem drawInto_keeps (rd : Reg) (w : Width) (s : State) :
    FpKept s (drawInto rd w s) ∧ CfgKept s (drawInto rd w s) := by
  obtain ⟨rest, used, h⟩ := drawNonzero_takes w s
  rw [drawInto, h]
  exact ⟨rfl, rfl⟩

/-- Settles O38: each arithmetic command runs behind checks of value registers and writes value registers alone. -/
theorem arithmeticIgnoresTheConfiguration : Obligations.ArithmeticIgnoresTheConfiguration := by
  intro i s c f hi
  cases i with
  | reduce rd rs1 sw => exact runCommand_reconfigured (c := c) (fp := f) rfl rfl rfl
  | muladd rd rs1 rs2 rs3 sw => exact runCommand_reconfigured (c := c) (fp := f) rfl rfl rfl
  | muladdr rd rs1 rs2 rs3 sw => exact runCommand_reconfigured (c := c) (fp := f) rfl rfl rfl
  | pow rd rs1 rs2 sw => exact runCommand_reconfigured (c := c) (fp := f) rfl rfl rfl
  | inv rd rs1 sw => exact runCommand_reconfigured (c := c) (fp := f) rfl rfl rfl
  | rand rd sw =>
    obtain ⟨hfp, hcfg⟩ := drawInto_keeps rd sw s
    refine runCommand_reconfigured (f := drawInto rd sw) (g := drawInto rd sw) (cs := []) ?_ hfp hcfg
    rw [drawInto, drawNonzero_reconfigured]
    rfl
  | _ => cases hi

/-! ## PACK2 -/

theorem lexLess_two (A B : Nat → Nat) : LexLess 2 A B ↔ A 0 < B 0 ∨ A 0 = B 0 ∧ A 1 < B 1 := by
  simp only [lexLess_succ, not_lexLess_zero, and_false, or_false, Nat.zero_add]

/-- Settles O57: the packed values are the tuples in base 2^61, channel 0 first. -/
theorem packedOrderIsTupleOrder : Obligations.PackedOrderIsTupleOrder := by
  intro s s' rd hv hv' hk hk' hr hr'
  obtain ⟨-, pack⟩ := pack2PacksTwoChannels
  obtain ⟨-, pack⟩ := pack rd
  have packed (s : State) (hv : s.cfg.valid = true) (hk : s.channels = 2) (hr : ∀ c < 2, fpNat s c < 2 ^ 61 - 1) :
      ∃ t, exec (.pack2 rd) s = .next t ∧ xNat t rd = fpNat s 0 * 2 ^ 61 + fpNat s 1 := by
    obtain ⟨-, -, -, completes⟩ := pack s
    have hp : s.modulus = 2 ^ 61 - 1 := WSel.modulus_of_two_channels hk
    obtain ⟨t, ht, -, hx, -⟩ := completes hv hk (hp ▸ hr 0 (by decide)) (hp ▸ hr 1 (by decide))
    exact ⟨t, ht, hx⟩
  obtain ⟨t, ht, hx⟩ := packed s hv hk hr
  obtain ⟨t', ht', hx'⟩ := packed s' hv' hk' hr'
  have h0 := hr 0 (by decide)
  have h1 := hr 1 (by decide)
  have h0' := hr' 0 (by decide)
  have h1' := hr' 1 (by decide)
  refine ⟨t, t', ht, ht', ?_, ?_⟩
  · rw [hx, hx', lexLess_two]
    omega
  · rw [hx, hx', Nat.forall_lt_succ_left, Nat.forall_lt_succ_left]
    simp only [Nat.not_lt_zero, false_implies, implies_true, and_true, Nat.zero_add]
    omega

end Sys2Proof.Machine
end

section
/-! The entropy source and the commands that draw from it: RAND and CONFIG with E = 0 (20_memory.md R72, 40_arith.md
R150, 41_table.md R177). -/

namespace Sys2Proof.Machine

open Sys2Proof.Spec

/-! ## The first acceptable word -/

theorem acceptable_cons (w : Width) (e : EntropyWord) (es : List EntropyWord) :
    acceptable w (e :: es) = if 1 ≤ e.toNat % 2 ^ w.bits ∧ e.toNat % 2 ^ w.bits ≤ w.modulus - 1
      then e.toNat % 2 ^ w.bits :: acceptable w es else acceptable w es := by
  simp only [acceptable, List.map_cons, List.filter_cons, decide_eq_true_eq]

/-- The rejection sampling takes the first acceptable candidate and leaves the others. -/
theorem acceptWord_of_acceptable {w : Width} {es : List EntropyWord} {v : Nat} {vs : List Nat}
    (h : acceptable w es = v :: vs) : ∃ rest, acceptWord w es = some (v, rest) ∧ acceptable w rest = vs := by
  induction es with
  | nil => cases h
  | cons e es ih =>
    rw [acceptable_cons] at h
    rw [acceptWord]
    split at h
    · next hv =>
      cases h
      exact ⟨es, if_pos hv, rfl⟩
    · next hv =>
      rw [if_neg hv]
      exact ih h

/-- A draw takes the first acceptable candidate on offer and leaves the others. -/
theorem drawNonzero_of_acceptable {w : Width} {s : State} {v : Nat} {vs : List Nat} (h : acceptable w s.rng = v :: vs) :
    (s.drawNonzero w).1 = v ∧ acceptable w (s.drawNonzero w).2.rng = vs ∧ (s.drawNonzero w).2.draws = s.draws := by
  obtain ⟨rest, hacc, hrest⟩ := acceptWord_of_acceptable h
  unfold State.drawNonzero
  rw [hacc]
  exact ⟨rfl, hrest, rfl⟩

/-- Several draws take the acceptable candidates on offer in order, where there are that many. -/
theorem drawMany_of_acceptable {w : Width} {k : Nat} {s : State} (hk : k ≤ (acceptable w s.rng).length) :
    (s.drawMany w k).1 = (acceptable w s.rng).take k := by
  induction k generalizing s with
  | zero => rfl
  | succ k ih =>
    cases h : acceptable w s.rng with
    | nil => rw [h] at hk; exact absurd hk (Nat.not_succ_le_zero k)
    | cons v vs =>
      obtain ⟨hv, hvs, -⟩ := drawNonzero_of_acceptable h
      rw [h, List.length_cons, Nat.succ_le_succ_iff] at hk
      rw [State.drawMany, List.take_succ_cons, hv, ih (hvs ▸ hk), hvs]

/-- Words that hold acceptable values are all taken. -/
theorem acceptable_ofNat {w : Width} {vs : List Nat} (h : ∀ v ∈ vs, 1 ≤ v ∧ v ≤ w.modulus - 1) :
    acceptable w (vs.map (BitVec.ofNat 128)) = vs := by
  induction vs with
  | nil => rfl
  | cons v vs ih =>
    obtain ⟨h1, h2⟩ := h v List.mem_cons_self
    have hlt : v < 2 ^ w.bits := h2.trans_lt (by unfold Width.modulus; have := Nat.two_pow_pos w.bits; omega)
    have hbits : 2 ^ w.bits ≤ 2 ^ 128 :=
      Nat.pow_le_pow_right (by decide) (by have := Width.bits_bounds w; omega)
    have hv : (BitVec.ofNat 128 v).toNat % 2 ^ w.bits = v := by
      rw [BitVec.toNat_ofNat, Nat.mod_eq_of_lt (hlt.trans_le hbits), Nat.mod_eq_of_lt hlt]
    rw [List.map_cons, acceptable_cons, hv, if_pos ⟨h1, h2⟩, ih fun u hu => h u (List.mem_cons_of_mem v hu)]

/-! ## RAND -/

/-- RAND runs behind no check and writes the drawn value into one register. -/
theorem exec_rand (rd : Reg) (sw : Width) (s : State) :
    ∃ t, exec (.rand rd sw) s = .next t ∧ Completes (encode (.rand rd sw)) s t ∧
      xNat t rd = (s.drawNonzero sw).1 ∧ t.rng = (s.drawNonzero sw).2.rng ∧ t.draws = (s.drawNonzero sw).2.draws ∧
      XKeptBut [rd.val] s t ∧ FpKept s t ∧ CfgKept s t := by
  obtain ⟨hnext, hc⟩ := exec_completes (i := .rand rd sw) (cs := []) (s := s) rfl rfl (quiet_drawInto rd sw s)
  obtain ⟨hfp, hcfg⟩ := drawInto_keeps rd sw s
  obtain ⟨rest, used, htake⟩ := drawNonzero_takes sw s
  have hp := Width.modulus_bounds sw
  have hfits : (toVal (s.drawNonzero sw).1).toNat = (s.drawNonzero sw).1 :=
    toVal_toNat_of_lt (by have := drawNonzero_range sw s; omega)
  refine ⟨_, hnext, hc, ?_, rfl, rfl, ?_, hfp, hcfg⟩
  · rw [xNat, complete_getX, drawInto, getX_setX_same _ _ rd.isLt, hfits]
  · have hx : XKeptBut [rd.val] (s.drawNonzero sw).2 (drawInto rd sw s) := xKeptBut_setX _ _ _
    rw [htake] at hx
    exact hx

/-- RAND writes the first acceptable candidate on offer and leaves the others. -/
theorem exec_rand_of_acceptable {s t : State} {rd : Reg} {sw : Width} {v : Nat} {vs : List Nat}
    (h : acceptable sw s.rng = v :: vs) (ht : exec (.rand rd sw) s = .next t) :
    xNat t rd = v ∧ acceptable sw t.rng = vs ∧ t.draws = s.draws := by
  obtain ⟨u, hu, -, hx, hrng, hdraws, -⟩ := exec_rand rd sw s
  cases hu.symm.trans ht
  obtain ⟨hv, hvs, hd⟩ := drawNonzero_of_acceptable h
  exact ⟨hx.trans hv, hrng ▸ hvs, hdraws.trans hd⟩

/-- Settles O36: RAND always completes with a drawn value; with the two values themselves on offer, two RAND write
them. -/
theorem randWritesANonzeroElement : Obligations.RandWritesANonzeroElement := by
  refine ⟨rejectsBadFields .rand (by decide), fun rd sw => ⟨rand_hasWord rd sw, fun s => ?_⟩,
    fun s rd rd' sw v v' h1 h2 h1' h2' => ?_⟩
  · obtain ⟨t, ht, hc, hx, -, -, hframe⟩ := exec_rand rd sw s
    obtain ⟨hlow, hhigh⟩ := drawNonzero_range sw s
    exact ⟨t, ht, hc, hx ▸ hlow, hx ▸ hhigh, hframe⟩
  · have hoffer : acceptable sw ([v, v'].map (BitVec.ofNat 128)) = [v, v'] := by
      refine acceptable_ofNat fun u hu => ?_
      rcases List.mem_pair.1 hu with rfl | rfl
      · exact ⟨h1, h2⟩
      · exact ⟨h1', h2'⟩
    obtain ⟨t, ht⟩ := exec_answers (.rand rd sw) { s with rng := [v, v'].map (BitVec.ofNat 128) }
    obtain ⟨u, hu⟩ := exec_answers (.rand rd' sw) t
    obtain ⟨hv, hvs, -⟩ := exec_rand_of_acceptable hoffer ht
    obtain ⟨hv', -⟩ := exec_rand_of_acceptable hvs hu
    exact ⟨_, t, u, ht, hv, hu, hv'⟩

/-! ## CONFIG with E = 0 -/

/-- CONFIG with E = 0 and a window length it accepts completes with the bases drawn. -/
theorem exec_configRandom {s : State} {rt : Reg} (ws : WSel) (h0 : xNat s rt ≠ 0) (h64 : xNat s rt < 2 ^ 64) :
    exec (.configRandom rt (some ws)) s
        = .next ((configureDrawn ws (xNat s rt) s).complete (encode (.configRandom rt (some ws)))) ∧
      Completes (encode (.configRandom rt (some ws))) s
        ((configureDrawn ws (xNat s rt) s).complete (encode (.configRandom rt (some ws)))) := by
  have hw : badWindow (s.getX rt) = false := badWindow_eq_false.2 ⟨Nat.pos_of_ne_zero h0, h64⟩
  exact exec_completes (i := .configRandom rt (some ws)) (cs := [(badWindow (s.getX rt), .badWindow)]) rfl
    (by rw [hw]; rfl) (quiet_configureDrawn ws _ s)

/-- CONFIG with E = 0 that raises no error had a window length it accepts. -/
theorem window_of_configRandom {s t : State} {rt : Reg} {ws : WSel}
    (h : exec (.configRandom rt (some ws)) s = .next t) (ht : t.err = false) : xNat s rt ≠ 0 ∧ xNat s rt < 2 ^ 64 := by
  cases hw : badWindow (s.getX rt) with
  | false =>
    obtain ⟨h1, h64⟩ := badWindow_eq_false.1 hw
    exact ⟨Nat.ne_of_gt h1, h64⟩
  | true =>
    obtain ⟨u, hu, herr, -⟩ := exec_raises (i := .configRandom rt (some ws)) (s := s) (e := .badWindow)
      (cs := [(badWindow (s.getX rt), .badWindow)]) rfl (by rw [hw]; rfl)
    cases hu.symm.trans h
    cases herr.symm.trans ht

/-- The bases of a CONFIG with E = 0 are the values drawn. -/
theorem base_configureDrawn (ws : WSel) (tau : Nat) (s : State) {c : Nat} (hc : c < ws.channels) :
    ((configureDrawn ws tau s).base c).toNat = (s.drawMany ws.width ws.channels).1.getD c 0 := by
  obtain ⟨-, hhigh⟩ := drawn_base_range (s := s) hc
  exact commit_configure_base_toNat hc hhigh

/-- Every CONFIG with E = 0 that raises no error leaves the values drawn as its bases. -/
theorem base_of_configRandom {s t : State} {rt : Reg} {ws : WSel} (h : exec (.configRandom rt (some ws)) s = .next t)
    (ht : t.err = false) {c : Nat} (hc : c < ws.channels) :
    (t.base c).toNat = (s.drawMany ws.width ws.channels).1.getD c 0 := by
  obtain ⟨h0, h64⟩ := window_of_configRandom h ht
  obtain ⟨hx, -⟩ := exec_configRandom ws h0 h64
  cases hx.symm.trans h
  exact base_configureDrawn ws _ s hc

theorem drawMany_getD_of_acceptable {w : Width} {k c : Nat} {s : State} (hk : k ≤ (acceptable w s.rng).length)
    (hc : c < k) : (s.drawMany w k).1.getD c 0 = (acceptable w s.rng).getD c 0 := by
  rw [drawMany_of_acceptable hk]
  simp [hc]

/-- Settles O37: RAND makes one draw and CONFIG with E = 0 one for each channel, and a draw takes the first acceptable
candidate. -/
theorem rejectionSamplingTakesTheFirstAcceptableWord : Obligations.RejectionSamplingTakesTheFirstAcceptableWord := by
  refine ⟨fun s t rd sw v vs => exec_rand_of_acceptable, fun s t rt ws h _ ht hk c hc => ?_,
    fun s rd sw v h1 h2 => ?_⟩
  · rw [base_of_configRandom h ht hc, drawMany_getD_of_acceptable hk hc]
  · obtain ⟨t, ht⟩ := exec_answers (.rand rd sw) { s with rng := [v].map (BitVec.ofNat 128) }
    have hoffer : acceptable sw ([v].map (BitVec.ofNat 128)) = [v] :=
      acceptable_ofNat fun u hu => List.mem_singleton.1 hu ▸ ⟨h1, h2⟩
    obtain ⟨hv, -⟩ := exec_rand_of_acceptable hoffer ht
    exact ⟨_, t, ht, hv⟩

/-- Settles O40: drawn bases are in range, and with the bases themselves on offer they are the ones drawn. -/
theorem configRandomCanDrawAnyBases : Obligations.ConfigRandomCanDrawAnyBases := by
  refine ⟨fun s t rt ws h _ ht c hc => ?_, fun s rt ws base h0 h64 hbase => ?_⟩
  · rw [base_of_configRandom h ht hc]
    exact drawn_base_range hc
  · have hoffer : acceptable ws.width (((List.range ws.channels).map base).map (BitVec.ofNat 128))
        = (List.range ws.channels).map base := by
      refine acceptable_ofNat fun v hv => ?_
      obtain ⟨c, hc, rfl⟩ := List.mem_map.1 hv
      exact hbase c (List.mem_range.1 hc)
    obtain ⟨hx, -, -, -, herr, -⟩ := exec_configRandom (rt := rt)
      (s := { s with rng := ((List.range ws.channels).map base).map (BitVec.ofNat 128) }) ws h0 h64
    refine ⟨_, _, hx, herr, fun c hc => (base_configureDrawn ws _ _ hc).trans ?_⟩
    rw [drawMany_getD_of_acceptable _ hc, hoffer]
    · simp [hc]
    · rw [hoffer, List.length_map, List.length_range]

end Sys2Proof.Machine
end

section
/-! CONFIG: its checks in order, and the configuration it builds from given and from drawn bases (41_table.md R170 to
R172). -/

namespace Sys2Proof.Machine

open Sys2Proof.Spec

/-! ## Its words -/

/-- The E bit of a word, read as a number. -/
theorem bits_explicit_eq_iff (w : Word) (e : Bool) : bits w 11 1 = e.toNat ↔ w.getLsbD 11 = e := by
  rw [bits, BitVec.getLsbD, Nat.testBit_eq_decide_div_mod_eq]
  rcases Nat.mod_two_eq_zero_or_one (w.toNat / 2 ^ 11) with h | h <;> rw [pow_one, h] <;> cases e <;> decide

/-- A word of CONFIG that misses the row of its E bit ends in ILLEGAL_FIELD (R111). -/
theorem engineFails_of_config_row {w : Word} (e : Bool) (hop : opcode w = 0x10) (he : bits w 11 1 = e.toNat)
    (hm : w &&& Op.config.mask e ≠ Op.config.pattern e) (s : State) : EngineFails w .illegalField s :=
  engineFails_of_decode (decode_illegalField_of .config e ((opcode_eq_iff w .config).1 hop)
    (.inl ((bits_explicit_eq_iff w e).1 he)) hm) s

/-! ## The configuration it builds -/

/-- A committed configuration holds the bases given, with their powers and tables. -/
theorem holdsConfiguration_commit {ws : WSel} {tau : Nat} {bases : List Nat} (s : State) (h64 : tau < 2 ^ 64)
    (hb : ∀ c < ws.channels, bases.getD c 0 ≤ ws.modulus - 1) :
    HoldsConfiguration ws tau (fun c => bases.getD c 0) (s.commit (configure ws tau bases)) := by
  refine ⟨rfl, rfl, commit_configure_tau h64, fun c hc => ⟨commit_configure_base_toNat hc (hb c hc),
    commit_configure_maxExp_toNat hc h64, fun a b => ?_⟩, fun c h4 hk => commit_configure_unused h4 hk⟩
  rw [commit_configure_entry hc, powMod_eq _ _ _ (by omega)]
  rfl

/-! ## The checks of CONFIG with E = 1 -/

theorem badWindow_eq_true (s : State) (n : Nat) : badWindow (s.getX n) = true ↔ xNat s n = 0 ∨ 2 ^ 64 ≤ xNat s n := by
  simp [badWindow, xNat]

theorem any_badBase_iff (ws : WSel) (s : State) (n : Nat) :
    (s.getTuple n ws.channels).any (badBase ws) = true
      ↔ ∃ c < ws.channels, xNat s (n + c) = 0 ∨ ws.modulus ≤ xNat s (n + c) := by
  simp [State.getTuple, badBase, xNat]

section explicit

variable {ws : WSel} {s : State} {rt rb : Reg}

/-- The checks of CONFIG with E = 1, in the order of R232. -/
def explicitChecks (ws : WSel) (rt rb : Reg) (s : State) : List Check :=
  [(tuplePastEnd rb ws.channels, .illegalField), (badWindow (s.getX rt), .badWindow),
   ((s.getTuple rb ws.channels).any (badBase ws), .badBase)]

theorem firstError_explicit_pastEnd (h : 15 < rb.val + ws.channels - 1) :
    firstError (explicitChecks ws rt rb s) = some .illegalField := by
  rw [explicitChecks, (tuplePastEnd_eq_true ..).2 h]
  rfl

theorem firstError_explicit_badWindow (h : rb.val + ws.channels - 1 ≤ 15)
    (hw : xNat s rt = 0 ∨ 2 ^ 64 ≤ xNat s rt) : firstError (explicitChecks ws rt rb s) = some .badWindow := by
  rw [explicitChecks, (tuplePastEnd_eq_false ..).2 h, (badWindow_eq_true ..).2 hw]
  rfl

theorem firstError_explicit_window (h : rb.val + ws.channels - 1 ≤ 15) (h0 : xNat s rt ≠ 0) (h64 : xNat s rt < 2 ^ 64) :
    firstError (explicitChecks ws rt rb s)
      = firstError [((s.getTuple rb ws.channels).any (badBase ws), .badBase)] := by
  rw [explicitChecks, (tuplePastEnd_eq_false ..).2 h, badWindow_eq_false.2 ⟨Nat.pos_of_ne_zero h0, h64⟩]
  rfl

end explicit

theorem getD_map_getTuple (s : State) (n : Nat) {k c : Nat} (hc : c < k) :
    ((s.getTuple n k).map BitVec.toNat).getD c 0 = xNat s (n + c) := by
  simp [State.getTuple, hc, xNat]

/-- HoldsConfiguration reads the bases of the configured channels alone. -/
theorem holdsConfiguration_congr {ws : WSel} {tau : Nat} {b b' : Nat → Nat} {t : State}
    (h : HoldsConfiguration ws tau b t) (hb : ∀ c < ws.channels, b c = b' c) : HoldsConfiguration ws tau b' t := by
  obtain ⟨hvalid, hwsel, htau, hch, hunused⟩ := h
  exact ⟨hvalid, hwsel, htau, fun c hc => hb c hc ▸ hch c hc, hunused⟩

/-- CONFIG with E = 1, of a width, in the order of its checks (R170). -/
theorem configExplicit : ConfigExplicit := by
  refine ⟨fun w s hop he hm => engineFails_of_config_row true hop he hm s, config_hasWord,
    config_reserved_raises, fun rt rb ws s => ⟨fun h => exec_raises rfl (firstError_explicit_pastEnd h),
      fun h hw => exec_raises rfl (firstError_explicit_badWindow h hw), fun h h0 h64 hb => exec_raises rfl ?_,
      fun h h0 h64 hb => ?_⟩⟩
  · refine (firstError_explicit_window h h0 h64).trans ?_
    rw [(any_badBase_iff ..).2 hb]
    rfl
  · have hgood : ¬ ∃ c < ws.channels, xNat s (rb.val + c) = 0 ∨ ws.modulus ≤ xNat s (rb.val + c) := by
      rintro ⟨c, hc, h1 | h1⟩
      · exact (hb c hc).1 h1
      · exact (hb c hc).2.not_ge h1
    obtain ⟨hnext, hc⟩ := exec_completes (i := .config rt rb (some ws)) (cs := explicitChecks ws rt rb s)
      (f := State.commit (configure ws (xNat s rt) ((s.getTuple rb ws.channels).map BitVec.toNat))) (s := s) rfl
      (by rw [firstError_explicit_window h h0 h64, Bool.eq_false_iff.2 (mt (any_badBase_iff ..).1 hgood)]; rfl)
      (Quiet.refl s)
    have hholds := holdsConfiguration_commit (ws := ws) (bases := (s.getTuple rb ws.channels).map BitVec.toNat) s h64
      fun c hc => by rw [getD_map_getTuple s _ hc]; exact Nat.le_pred_of_lt (hb c hc).2
    exact ⟨_, hnext, hc, holdsConfiguration_congr hholds fun c hc => getD_map_getTuple s _ hc, fun _ _ _ => rfl, rfl,
      rfl, rfl⟩

/-! ## CONFIG with E = 0 -/

/-- The commit with drawn bases keeps the value registers and the fingerprints. -/
theorem configureDrawn_keeps (ws : WSel) (tau : Nat) (s : State) :
    XKeptBut [] s (configureDrawn ws tau s) ∧ FpKept s (configureDrawn ws tau s) := by
  obtain ⟨rest, used, h⟩ := drawMany_takes ws.width ws.channels s
  rw [configureDrawn, h]
  exact ⟨fun _ _ _ => rfl, rfl⟩

/-- CONFIG with E = 0, of a width: its one check, then its bases (R170). -/
theorem configDrawn : ConfigDrawn := by
  refine ⟨fun w s hop he hm => engineFails_of_config_row false hop he hm s, configRandom_hasWord,
    configRandom_reserved_raises, fun rt ws s =>
    ⟨fun hw => exec_raises (cs := [(badWindow (s.getX rt), .badWindow)]) rfl ?_, fun h0 h64 => ?_⟩⟩
  · rw [(badWindow_eq_true ..).2 hw]
    rfl
  · obtain ⟨hnext, hc⟩ := exec_configRandom ws h0 h64
    obtain ⟨hx, hfp⟩ := configureDrawn_keeps ws (xNat s rt) s
    exact ⟨_, fun c => (s.drawMany ws.width ws.channels).1.getD c 0, hnext, hc, fun c hk => drawn_base_range hk,
      holdsConfiguration_commit (s.drawMany ws.width ws.channels).2 h64 fun c hk => (drawn_base_range (s := s) hk).2,
      hx, hfp⟩

/-- Settles O39: both forms of CONFIG commit one configuration, built from the given or from the drawn bases. -/
theorem configBuildsTheWholeConfiguration : Obligations.ConfigBuildsTheWholeConfiguration :=
  ⟨configExplicit, configDrawn⟩

end Sys2Proof.Machine
end

section
/-! Runs of roll commands (42_roll.md R194 to R199): a run computes, channel by channel, a recurrence mod P whose values
are the polynomials of the window. -/

namespace Sys2Proof.Machine

open Sys2Proof.Spec

/-! ## One roll -/

/-- What a roll command adds in channel c (R191, R193). -/
def rollAddend (s : State) (c : Nat) : Instr → Nat
  | .fill b => b.toNat
  | .slide a b => (s.entry c a b).toNat
  | _ => 0

/-- The fingerprint of channel c after one roll from the fingerprint f. -/
def rollFp (s : State) (c f : Nat) (i : Instr) : Nat := ((s.base c).toNat * f + rollAddend s c i) % s.modulus

/-- What a roll computes depends on the configuration alone. -/
theorem rollFp_congr {s t : State} (h : t.cfg = s.cfg) : rollFp t = rollFp s := by
  have he : rollAddend t = rollAddend s := by
    funext c i
    cases i <;> simp only [rollAddend, State.entry, State.modulus, h]
  funext c f i
  rw [rollFp, rollFp, he, State.base, State.base, State.modulus, State.modulus, h]

/-- A roll command in a configured engine with field elements in its channels completes and leaves field elements. -/
theorem exec_roll {i : Instr} {s : State} (hi : isRoll i = true) (hv : s.cfg.valid = true) (hr : ¬ FpOutOfRange s) :
    ∃ t, exec i s = .next t ∧ t.err = s.err ∧ t.cfg = s.cfg ∧ ¬ FpOutOfRange t ∧
      ∀ c < s.channels, fpNat t c = rollFp s c (fpNat s c) i := by
  have completes : ∃ t, exec i s = .next t ∧ Completes (encode i) s t ∧
      (∀ c < s.channels, fpNat t c = rollFp s c (fpNat s c) i) ∧ CfgKept s t := by
    cases i with
    | fill b =>
      obtain ⟨t, ht, hc, hfp, -, -, hcfg, -⟩ := exec_rollBy (i := .fill b) rfl hv hr
      exact ⟨t, ht, hc, hfp, hcfg⟩
    | slide a b =>
      obtain ⟨t, ht, hc, hfp, -, -, hcfg, -⟩ := exec_rollBy (i := .slide a b) rfl hv hr
      exact ⟨t, ht, hc, hfp, hcfg⟩
    | _ => cases hi
  obtain ⟨t, ht, hc, hfp, hcfg⟩ := completes
  obtain ⟨herr, -⟩ := completes_records hc
  refine ⟨t, ht, herr, hcfg, ?_, hfp⟩
  rintro ⟨c, hc, hge⟩
  rw [State.channels, hcfg] at hc
  rw [hfp c hc, State.modulus, hcfg] at hge
  exact absurd (Nat.mod_lt _ (modulus_pos s)) hge.not_gt

/-! ## A run of rolls -/

/-- A run of roll commands completes, and computes the recurrence in every configured channel. -/
theorem execAll_rolls {rolls : List Instr} {s : State} (hrolls : ∀ i ∈ rolls, isRoll i = true)
    (hv : s.cfg.valid = true) (hr : ¬ FpOutOfRange s) :
    ∃ t, execAll rolls s = .next t ∧ t.err = s.err ∧
      ∀ c < s.channels, fpNat t c = rolls.foldl (rollFp s c) (fpNat s c) := by
  induction rolls generalizing s with
  | nil => exact ⟨s, rfl, rfl, fun _ _ => rfl⟩
  | cons i rolls ih =>
    obtain ⟨u, hu, herr, hcfg, hru, hfp⟩ := exec_roll (hrolls i List.mem_cons_self) hv hr
    obtain ⟨t, ht, herr', hfp'⟩ := ih (fun j hj => hrolls j (List.mem_cons_of_mem i hj)) (hcfg ▸ hv) hru
    refine ⟨t, by rw [execAll, hu]; exact ht, herr'.trans herr, fun c hc => ?_⟩
    rw [hfp' c (by rw [State.channels, hcfg]; exact hc), rollFp_congr hcfg, hfp c hc, List.foldl_cons]

/-- A run of roll commands from FPCLR starts from 0 in every channel, whatever the fingerprints were. -/
theorem execAll_fpclr_rolls {rolls : List Instr} {s : State} (hrolls : ∀ i ∈ rolls, isRoll i = true)
    (hv : s.cfg.valid = true) :
    ∃ t, execAll (.fpclr :: rolls) s = .next t ∧ t.err = s.err ∧
      ∀ c < s.channels, fpNat t c = rolls.foldl (rollFp s c) 0 := by
  obtain ⟨-, -, clears⟩ := fpclrClearsEveryFingerprint
  obtain ⟨u, hu, hc, hzero, -, hcfg, -⟩ := clears s
  obtain ⟨herr, -⟩ := completes_records hc
  have hfp (c : Nat) (hc : c < u.channels) : fpNat u c = 0 := by
    rw [fpNat, hzero c (hc.trans_le (channels_le u))]
    rfl
  have hr : ¬ FpOutOfRange u := by
    rintro ⟨c, hc, hge⟩
    rw [hfp c hc] at hge
    exact absurd (modulus_pos u) hge.not_gt
  obtain ⟨t, ht, herr', hfp'⟩ := execAll_rolls hrolls (show u.cfg.valid = true from hcfg ▸ hv) hr
  refine ⟨t, by rw [execAll, hu]; exact ht, herr'.trans herr, fun c hc => ?_⟩
  have hc' : c < u.channels := by rw [State.channels, hcfg]; exact hc
  rw [hfp' c hc', rollFp_congr hcfg, hfp c hc']

theorem isRoll_of_mem_fills {x : Nat → Byte} {m : Nat} {i : Instr} (h : i ∈ fills x m) : isRoll i = true := by
  obtain ⟨k, -, rfl⟩ := List.mem_map.1 h
  rfl

theorem isRoll_of_mem_slides {x : Nat → Byte} {tau n : Nat} {i : Instr} (h : i ∈ slides x tau n) :
    isRoll i = true := by
  obtain ⟨k, -, rfl⟩ := List.mem_map.1 h
  rfl

theorem isRoll_of_mem_stream {x : Nat → Byte} {tau m n : Nat} {i : Instr} (h : i ∈ fills x m ++ slides x tau n) :
    isRoll i = true :=
  (List.mem_append.1 h).elim isRoll_of_mem_fills isRoll_of_mem_slides

/-! ## The polynomial of a window -/

/-- The window polynomial before its reduction mod p. -/
def windowSum (β : Nat) (x : Nat → Byte) (start m : Nat) : Nat :=
  ∑ i ∈ Finset.range m, (x (start + i)).toNat * β ^ (m - 1 - i)

theorem windowPoly_eq_mod (p β : Nat) (x : Nat → Byte) (start m : Nat) :
    windowPoly p β x start m = windowSum β x start m % p := rfl

/-- A byte that arrives. -/
theorem windowSum_succ_right (β : Nat) (x : Nat → Byte) (start m : Nat) :
    windowSum β x start (m + 1) = β * windowSum β x start m + (x (start + m)).toNat := by
  unfold windowSum
  rw [Finset.sum_range_succ, Finset.mul_sum, Nat.add_sub_cancel, Nat.sub_self, pow_zero, mul_one]
  congr 1
  refine Finset.sum_congr rfl fun i hi => ?_
  rw [show m - i = (m - 1 - i) + 1 by have := Finset.mem_range.1 hi; omega, pow_succ]
  ring

/-- The byte that departs next, in front. -/
theorem windowSum_succ_left (β : Nat) (x : Nat → Byte) (start m : Nat) :
    windowSum β x start (m + 1) = windowSum β x (start + 1) m + (x start).toNat * β ^ m := by
  unfold windowSum
  rw [Finset.sum_range_succ', Nat.add_sub_cancel, Nat.sub_zero, Nat.add_zero]
  congr 1
  refine Finset.sum_congr rfl fun i _ => ?_
  rw [show start + (i + 1) = start + 1 + i by omega, show m - (i + 1) = m - 1 - i by omega]

/-- Filling computes the polynomial of the bytes filled (R196). -/
theorem foldl_fills (s : State) (c : Nat) (x : Nat → Byte) (m : Nat) :
    (fills x m).foldl (rollFp s c) 0 = windowPoly s.modulus (s.base c).toNat x 0 m := by
  induction m with
  | zero => exact (Nat.zero_mod _).symm
  | succ m ih =>
    rw [show fills x (m + 1) = fills x m ++ [.fill (x m)] by simp [fills, List.range_succ], List.foldl_append, ih,
      List.foldl_cons, List.foldl_nil, windowPoly_eq_mod, windowPoly_eq_mod, windowSum_succ_right, Nat.zero_add]
    exact ((Nat.mod_modEq _ _).mul_left _).add_right _

/-! ## The closed form of a slide -/

section configured

variable {s : State} {c : Nat} (hi : Inv s) (hv : s.cfg.valid = true) (hc : c < s.channels)

include hi hv hc

/-- Mod P a table entry is b - a · base^tau (41_table.md R172). -/
theorem entry_zmod (a b : Byte) : ((s.entry c a b).toNat : ZMod s.modulus)
    = b.toNat - a.toNat * ((s.base c).toNat : ZMod s.modulus) ^ s.cfg.tau.toNat := by
  have hle : a.toNat * (s.maxExp c).toNat % s.modulus ≤ s.modulus := (Nat.mod_lt _ (modulus_pos s)).le
  rw [entry_of_inv hi hv hc, ZMod.natCast_mod, Nat.cast_add, Nat.cast_sub hle, ZMod.natCast_self, ZMod.natCast_mod,
    maxExp_of_inv hi hv hc, Nat.cast_mul, ZMod.natCast_mod, Nat.cast_pow]
  ring

/-- A slide from a fingerprint f computes (base · f - a · base^tau + b) mod P (R194). -/
theorem rollFp_slide_int (f : Nat) (a b : Byte) : (rollFp s c f (.slide a b) : ℤ)
    = (((s.base c).toNat : ℤ) * (f : ℤ) - (a.toNat : ℤ) * ((s.base c).toNat : ℤ) ^ s.cfg.tau.toNat + (b.toNat : ℤ))
      % (s.modulus : ℤ) := by
  rw [rollFp, rollAddend, Int.natCast_mod]
  refine (ZMod.intCast_eq_intCast_iff' _ _ _).1 ?_
  push_cast
  rw [entry_zmod hi hv hc]
  ring

/-- A slide moves the window of the polynomial by one byte (R196). -/
theorem rollFp_slide_windowPoly (x : Nat → Byte) (start : Nat) :
    rollFp s c (windowPoly s.modulus (s.base c).toNat x start s.cfg.tau.toNat)
        (.slide (x start) (x (start + s.cfg.tau.toNat)))
      = windowPoly s.modulus (s.base c).toNat x (start + 1) s.cfg.tau.toNat := by
  have hboth := (windowSum_succ_right (s.base c).toNat x start s.cfg.tau.toNat).symm.trans (windowSum_succ_left ..)
  have hboth : ((_ : ℕ) : ZMod s.modulus) = _ := congrArg Nat.cast hboth
  rw [rollFp, rollAddend, windowPoly_eq_mod, windowPoly_eq_mod]
  refine (ZMod.natCast_eq_natCast_iff' _ _ _).1 ?_
  push_cast at hboth ⊢
  rw [ZMod.natCast_mod, entry_zmod hi hv hc]
  linear_combination hboth

/-- Slides from a full window compute the polynomial of the window they reach (R196). -/
theorem foldl_slides (x : Nat → Byte) (n : Nat) :
    (slides x s.cfg.tau.toNat n).foldl (rollFp s c) (windowPoly s.modulus (s.base c).toNat x 0 s.cfg.tau.toNat)
      = windowPoly s.modulus (s.base c).toNat x n s.cfg.tau.toNat := by
  induction n with
  | zero => rfl
  | succ n ih =>
    rw [show slides x s.cfg.tau.toNat (n + 1)
        = slides x s.cfg.tau.toNat n ++ [.slide (x n) (x (n + s.cfg.tau.toNat))] by simp [slides, List.range_succ],
      List.foldl_append, ih, List.foldl_cons, List.foldl_nil, rollFp_slide_windowPoly hi hv hc]

end configured

/-- From FPCLR, a fill of the window and n slides leave the polynomial of the window at n. -/
theorem execAll_stream {s : State} (hi : Inv s) (hv : s.cfg.valid = true) (x : Nat → Byte) (n : Nat) :
    ∃ t, execAll (.fpclr :: fills x s.cfg.tau.toNat ++ slides x s.cfg.tau.toNat n) s = .next t ∧ t.err = s.err ∧
      ∀ c < s.channels, fpNat t c = windowPoly s.modulus (s.base c).toNat x n s.cfg.tau.toNat := by
  obtain ⟨t, ht, herr, hfp⟩ := execAll_fpclr_rolls (s := s)
    (rolls := fills x s.cfg.tau.toNat ++ slides x s.cfg.tau.toNat n) (fun _ => isRoll_of_mem_stream) hv
  refine ⟨t, ht, herr, fun c hc => ?_⟩
  rw [hfp c hc, List.foldl_append, foldl_fills, foldl_slides hi hv hc]

/-- From FPCLR, m fills leave the polynomial of the bytes filled. -/
theorem execAll_fills {s : State} (hv : s.cfg.valid = true) (x : Nat → Byte) (m : Nat) :
    ∃ t, execAll (.fpclr :: fills x m) s = .next t ∧ t.err = s.err ∧
      ∀ c < s.channels, fpNat t c = windowPoly s.modulus (s.base c).toNat x 0 m := by
  obtain ⟨t, ht, herr, hfp⟩ := execAll_fpclr_rolls (s := s) (rolls := fills x m) (fun _ => isRoll_of_mem_fills) hv
  exact ⟨t, ht, herr, fun c hc => (hfp c hc).trans (foldl_fills s c x m)⟩

/-! ## A channel alone -/

theorem alone_entry {s : State} {c : Nat} (hch : ChannelConfigured s c) (hp : s.modulus = WSel.w61.modulus) :
    (alone c s).entry 0 = s.entry c := by
  obtain ⟨htable, -⟩ := hch
  obtain ⟨heads, hheads⟩ := Option.isSome_iff_exists.1 htable
  have h0 : (alone c s).cfg.table[0]?.getD none = some heads := hheads
  funext a b
  simp only [State.entry, h0, hheads, hp]
  rfl

/-- The single-field engine of a channel of 61 bits rolls as the channel does (R195). -/
theorem rollFp_alone {s : State} {c : Nat} (hch : ChannelConfigured s c) (hp : s.modulus = WSel.w61.modulus) :
    rollFp (alone c s) 0 = rollFp s c := by
  have hadd : rollAddend (alone c s) 0 = rollAddend s c := by
    funext i
    cases i with
    | slide a b => rw [rollAddend, rollAddend, alone_entry hch hp]
    | _ => rfl
  funext f i
  rw [rollFp, rollFp, hadd, hp]
  rfl

/-! ## The statements -/

/-- Settles O47: one slide of the recurrence, in the closed form of its table entry. -/
theorem slideIsTheClosedForm : Obligations.SlideIsTheClosedForm := by
  intro s a b hi hv hr
  obtain ⟨t, ht, herr, -, -, hfp⟩ := exec_roll (i := .slide a b) rfl hv hr
  exact ⟨t, ht, herr, fun c hc => hfp c hc ▸ rollFp_slide_int hi hv hc _ a b⟩

/-- Settles O48: fills build the window's polynomial and slides move it. -/
theorem windowLaw : Obligations.WindowLaw := fun _ x hi hv =>
  ⟨fun m _ _ => execAll_fills hv x m, fun _ _ => execAll_stream hi hv x _⟩

/-- Settles O49: both runs leave the polynomial of the same window. -/
theorem rollingEqualsAFreshFill : Obligations.RollingEqualsAFreshFill := by
  intro s x i hi hv
  obtain ⟨t, ht, herr, hfp⟩ := execAll_stream hi hv x i
  obtain ⟨u, hu, herr', hfp'⟩ := execAll_fills hv (fun k => x (i + k)) s.cfg.tau.toNat
  refine ⟨t, u, ht, hu, herr, herr', fun c hc => BitVec.eq_of_toNat_eq ?_⟩
  have hsame : windowPoly s.modulus (s.base c).toNat (fun k => x (i + k)) 0 s.cfg.tau.toNat
      = windowPoly s.modulus (s.base c).toNat x i s.cfg.tau.toNat := by
    simp only [windowPoly, Nat.zero_add]
  exact (hfp c hc).trans (hsame.symm.trans (hfp' c hc).symm)

/-- Settles O50: both runs compute the same recurrence from the same fingerprint. -/
theorem channelsAreIndependent : Obligations.ChannelsAreIndependent := by
  intro s c rolls hi hv hw hc hr hrolls
  obtain ⟨-, -, hch, -⟩ := configured_of_inv hi hv
  have hp : s.modulus = WSel.w61.modulus := congrArg Width.modulus hw
  have hfp0 : fpNat (alone c s) 0 = fpNat s c := rfl
  have hr' : ¬ FpOutOfRange (alone c s) := by
    rintro ⟨d, hd, hge⟩
    obtain rfl : d = 0 := Nat.lt_one_iff.1 hd
    exact hr ⟨c, hc, by rw [hp, ← hfp0]; exact hge⟩
  obtain ⟨t, ht, herr, hfp⟩ := execAll_rolls hrolls hv hr
  obtain ⟨u, hu, herr', hfp'⟩ := execAll_rolls hrolls (s := alone c s) hv hr'
  refine ⟨t, u, ht, hu, herr, herr', BitVec.eq_of_toNat_eq ?_⟩
  have hrec := hfp' 0 Nat.one_pos
  rw [rollFp_alone (hch c hc) hp, hfp0] at hrec
  exact (hfp c hc).trans hrec.symm

/-- Settles O51: with tau = 1 the power in every closed form is the base itself. -/
theorem windowOfOneByte : Obligations.WindowOfOneByte := by
  intro s a b hi hv htau
  have hbyte (v : Byte) : v.toNat < s.modulus := lt_of_lt_of_le (by omega) (modulus_bounds s).1
  refine ⟨fun c hc => ?_, ?_, fun hr => ?_⟩
  · obtain ⟨-, -, hch, -⟩ := configured_of_inv hi hv
    obtain ⟨-, -, hbase, -⟩ := hch c hc
    have hpos := modulus_pos s
    have hmax : s.maxExp c = s.base c := by
      apply BitVec.eq_of_toNat_eq
      rw [maxExp_of_inv hi hv hc, htau, pow_one, Nat.mod_eq_of_lt (by omega)]
    exact ⟨hmax, hmax ▸ entry_of_inv hi hv hc a b⟩
  · obtain ⟨t, ht, -, hfp⟩ := execAll_fpclr_rolls (s := s) (rolls := [.fill a]) (by simp [isRoll]) hv
    refine ⟨t, ht, fun c hc => ?_⟩
    rw [hfp c hc, List.foldl_cons, List.foldl_nil, rollFp, Nat.mul_zero, Nat.zero_add]
    exact Nat.mod_eq_of_lt (hbyte a)
  · obtain ⟨t, ht, -, -, -, hfp⟩ := exec_roll (i := .slide a b) rfl hv hr
    refine ⟨t, ht, fun c hc => ?_⟩
    have hform : (fpNat t c : ℤ)
        = (((s.base c).toNat : ℤ) * ((fpNat s c : ℤ) - a.toNat) + b.toNat) % (s.modulus : ℤ) := by
      rw [hfp c hc, rollFp_slide_int hi hv hc, htau, pow_one]
      congr 1
      ring
    refine ⟨fun ha => ?_, hform⟩
    rw [ha, sub_self, mul_zero, zero_add] at hform
    have hb := hbyte b
    rw [Int.emod_eq_of_lt (by omega) (by omega)] at hform
    exact_mod_cast hform

end Sys2Proof.Machine
end

section
/-! The check order (60_exceptions.md R232): every command's own checks are numbered as the rule numbers them, so the
first of them that fails is the rule's first. -/

namespace Sys2Proof

open Sys2Proof.Spec

/-! ## Fields as numbers -/

theorem regField_val (lo : Nat) (w : Word) : (regField lo w).val = bits w lo 4 := field_toNat rfl

theorem chanField_val (w : Word) : (chanField w).val = bits w 18 2 := field_toNat rfl

theorem modulus_ofCode (w : Word) : (Width.ofCode (w.extractLsb' 0 2)).modulus = swModulus (bits w 0 2) := by
  rw [show bits w 0 2 = (w.extractLsb' 0 2).toNat from (field_toNat rfl).symm]
  generalize w.extractLsb' 0 2 = c
  revert c
  decide

/-- The wsel code of a word: reserved, or that of a width. -/
theorem wsel_cases (w : Word) :
    (WSel.ofCode (w.extractLsb' 8 3) = none ∧ bits w 8 3 = 7) ∨
    ∃ ws, WSel.ofCode (w.extractLsb' 8 3) = some ws ∧ bits w 8 3 ≠ 7 ∧ wselModulus (bits w 8 3) = ws.modulus ∧
      wselChannels (bits w 8 3) = ws.channels := by
  rw [show bits w 8 3 = (w.extractLsb' 8 3).toNat from (field_toNat rfl).symm]
  rcases h : WSel.ofCode (w.extractLsb' 8 3) with _ | ws
  · rw [← WSel.fieldCode_ofCode (w.extractLsb' 8 3), h]
    exact .inl ⟨rfl, rfl⟩
  · rw [← WSel.fieldCode_ofCode (w.extractLsb' 8 3), h]
    exact .inr ⟨ws, rfl, by cases ws <;> decide⟩

end Sys2Proof

namespace Sys2Proof.Machine

open Sys2Proof.Spec

/-! ## Numbered checks -/

/-- The checks a command runs, with their numbers in R232; an odd pair field is a legal word's check 2. -/
def numberedChecks (s : State) : Instr → List (Nat × Bool)
  | .nop | .rand _ _ | .fpclr => []
  | .reduce _ rs1 sw => [(2, !Reg.isEven rs1), (9, decide (sw.modulus * sw.modulus ≤ (s.getPair rs1).toNat))]
  | .muladd rd rs1 rs2 rs3 sw => [(2, !Reg.isEven rd), (9, (multiplyRange sw rs1 rs2 rs3 s).1)]
  | .muladdr _ rs1 rs2 rs3 sw => [(9, (multiplyRange sw rs1 rs2 rs3 s).1)]
  | .pow _ rs1 _ sw | .inv _ rs1 sw => [(9, outOfField sw (s.getX rs1))]
  | .config _ _ none | .configRandom _ none => [(3, true)]
  | .config rt rb (some ws) =>
    [(5, tuplePastEnd rb ws.channels), (7, badWindow (s.getX rt)), (8, (s.getTuple rb ws.channels).any (badBase ws))]
  | .configRandom rt (some _) => [(7, badWindow (s.getX rt))]
  | .lookup _ ch _ _ => [(4, !s.cfg.valid), (5, decide (s.channels ≤ ch.val))]
  | .fill _ | .slide _ _ => [(4, !s.cfg.valid), (9, (List.range s.channels).any (fpOutOfField s))]
  | .fpget r | .fpput r => [(4, !s.cfg.valid), (5, tuplePastEnd r s.channels)]
  | .cmp _ rs1 rs2 =>
    [(4, !s.cfg.valid), (5, tuplePastEnd rs1 s.channels || tuplePastEnd rs2 s.channels),
     (9, (s.getTuple rs1 s.channels ++ s.getTuple rs2 s.channels).any fun v => s.modulus ≤ v.toNat)]
  | .pack2 _ => [(4, !s.cfg.valid), (6, s.channels != 2), (9, fpOutOfField s 0 || fpOutOfField s 1)]

/-- Numbered checks as the checks of runCommand. -/
def coded (checks : List (Nat × Bool)) : List Check := checks.map fun c => (c.2, checkCode c.1)

/-- Every command runs behind its numbered checks, and its writes are quiet. -/
theorem exec_eq_runCommand (i : Instr) (s : State) :
    ∃ f, exec i s = runCommand (encode i) (coded (numberedChecks s i)) f s ∧ Quiet s (f s) := by
  cases i with
  | nop => exact ⟨id, rfl, Quiet.refl s⟩
  | reduce rd rs1 sw => exact ⟨_, rfl, quiet_setX ..⟩
  | muladd rd rs1 rs2 rs3 sw => exact ⟨_, rfl, quiet_setPair ..⟩
  | muladdr rd rs1 rs2 rs3 sw => exact ⟨_, rfl, quiet_setX ..⟩
  | pow rd rs1 rs2 sw => exact ⟨_, rfl, quiet_setX ..⟩
  | inv rd rs1 sw => exact ⟨_, rfl, quiet_setX ..⟩
  | rand rd sw => exact ⟨_, rfl, quiet_drawInto ..⟩
  | config rt rb wsel =>
    cases wsel with
    | none => exact ⟨id, rfl, Quiet.refl s⟩
    | some ws => exact ⟨_, rfl, Quiet.refl s⟩
  | configRandom rt wsel =>
    cases wsel with
    | none => exact ⟨id, rfl, Quiet.refl s⟩
    | some ws => exact ⟨_, rfl, quiet_configureDrawn ..⟩
  | lookup rd ch a b => exact ⟨_, rfl, quiet_setX ..⟩
  | fill b => exact ⟨_, rfl, quiet_setFps ..⟩
  | slide a b => exact ⟨_, rfl, quiet_setFps ..⟩
  | fpclr => exact ⟨_, rfl, quiet_setFps ..⟩
  | fpget rd => exact ⟨_, rfl, quiet_setTuple ..⟩
  | fpput rs1 => exact ⟨_, rfl, quiet_setFps ..⟩
  | cmp rd rs1 rs2 => exact ⟨_, rfl, quiet_setX ..⟩
  | pack2 rd => exact ⟨_, rfl, quiet_setX ..⟩

/-- Every command runs its checks in the order of their numbers. -/
theorem numberedChecks_sorted (s : State) (i : Instr) : ((numberedChecks s i).map (·.1)).Pairwise (· < ·) := by
  cases i with
  | config rt rb wsel => cases wsel <;> simp [numberedChecks]
  | configRandom rt wsel => cases wsel <;> simp [numberedChecks]
  | _ => simp [numberedChecks]

theorem firstError_coded_none {checks : List (Nat × Bool)} (h : ∀ n, (n, true) ∉ checks) :
    firstError (coded checks) = none := by
  induction checks with
  | nil => rfl
  | cons c checks ih =>
    obtain ⟨k, b⟩ := c
    cases b with
    | true => exact absurd List.mem_cons_self (h k)
    | false => exact ih fun n hn => h n (List.mem_cons_of_mem _ hn)

/-- Of checks in the order of their numbers the first failing one gives the code. -/
theorem firstError_coded_some {checks : List (Nat × Bool)} (hs : (checks.map (·.1)).Pairwise (· < ·)) {n : Nat}
    (hn : (n, true) ∈ checks) (hfirst : ∀ m < n, (m, true) ∉ checks) :
    firstError (coded checks) = some (checkCode n) := by
  induction checks with
  | nil => cases hn
  | cons c checks ih =>
    obtain ⟨k, b⟩ := c
    rw [List.map_cons, List.pairwise_cons] at hs
    obtain ⟨hk, hs⟩ := hs
    cases b with
    | true =>
      rcases List.mem_cons.1 hn with heq | htail
      · cases heq
        rfl
      · exact absurd List.mem_cons_self (hfirst k (hk n (List.mem_map.2 ⟨_, htail, rfl⟩)))
    | false =>
      rcases List.mem_cons.1 hn with heq | htail
      · cases heq
      · exact ih hs htail fun m hm hmem => hfirst m hm (List.mem_cons_of_mem _ hmem)

/-! ## The rule's checks are the commands' own -/

/-- Check 1 of R232 is the decoder's opcode check. -/
theorem checkFails_one_iff (w : Word) (s : State) : checkFails 1 w s ↔ Op.ofByte (w.extractLsb' 24 8) = none := by
  rw [ofByte_eq_none_iff, ← opcode_eq_toNat]
  rfl

/-- Check 2 of R232 passes exactly for the words that are commands. -/
theorem checkFails_two_iff (w : Word) (s : State) : checkFails 2 w s ↔ ∀ i, decode w ≠ .ok i := by
  constructor
  · intro h i hd
    rcases decode_cases w with ⟨-, h'⟩ | ⟨op, -, ⟨hm, -⟩ | ⟨-, h'⟩⟩
    · cases h'.symm.trans hd
    · exact h _ (op.row_mem_rows _) hm
    · cases h'.symm.trans hd
  · intro h r hr hm
    obtain ⟨op, e, rfl⟩ := exists_row_of_mem_rows hr
    exact h _ (decode_of_row hm)

/-- The numbers of a command's own checks. -/
theorem number_bounds {s : State} {i : Instr} {n : Nat} {b : Bool} (h : (n, b) ∈ numberedChecks s i) :
    2 ≤ n ∧ n ≤ 9 := by
  have hall : ∀ c ∈ numberedChecks s i, 2 ≤ c.1 ∧ c.1 ≤ 9 := by
    cases i with
    | config rt rb wsel => cases wsel <;> simp [numberedChecks]
    | configRandom rt wsel => cases wsel <;> simp [numberedChecks]
    | _ => simp [numberedChecks]
  exact hall _ h

/-- The pair fields of a well-formed command pass. -/
theorem two_not_mem_numberedChecks (s : State) {i : Instr} (hwf : i.wf = true) : (2, true) ∉ numberedChecks s i := by
  cases i with
  | config rt rb wsel => cases wsel <;> simp [numberedChecks]
  | configRandom rt wsel => cases wsel <;> simp [numberedChecks]
  | reduce | muladd =>
    rw [Instr.wf] at hwf
    simp [numberedChecks, hwf]
  | _ => simp [numberedChecks]

theorem fpOutOfField_iff (s : State) (c : Nat) : fpOutOfField s c = true ↔ s.modulus ≤ fpNat s c := decide_eq_true_iff

/-- A check of R232 after the second fails exactly if the command's own check of that number does; beyond the third this
is said only where the third passes, for a CONFIG with the reserved width code stops there. -/
theorem checkFails_iff_mem {w : Word} {op : Op} (hop : opcode w = op.byte.toNat) (s : State) {n : Nat} (h3 : 3 ≤ n)
    (h9 : n ≤ 9) (hwsel : n = 3 ∨ ¬ checkFails 3 w s) :
    checkFails n w s ↔ (n, true) ∈ numberedChecks s (op.instr w) := by
  cases op with
  | nop | rand | fpclr => interval_cases n <;> simp [checkFails, numberedChecks, Op.instr, hop, Op.byte]
  | reduce | muladd | muladdr | pow | inv =>
    interval_cases n <;> simp [checkFails, numberedChecks, Op.instr, hop, Op.byte, regField_val, multiplyRange,
      outOfField, modulus_ofCode, pairNat, getPair_toNat, xNat, or_assoc]
  | lookup | fpget | fpput =>
    interval_cases n <;> simp [checkFails, numberedChecks, Op.instr, hop, Op.byte, regField_val, chanField_val,
      tuplePastEnd_eq_true]
  | fill | slide =>
    interval_cases n <;> simp [checkFails, numberedChecks, Op.instr, hop, Op.byte, FpOutOfRange, fpOutOfField_iff]
  | pack2 => interval_cases n <;> simp [checkFails, numberedChecks, Op.instr, hop, Op.byte, fpOutOfField_iff]
  | cmp =>
    interval_cases n <;> simp [checkFails, numberedChecks, Op.instr, hop, Op.byte, regField_val, tuplePastEnd_eq_true,
      -List.any_eq_true, -List.any_append, any_getTuple_iff]
  | config =>
    rcases wsel_cases w with ⟨hnone, h7⟩ | ⟨ws, hsome, h7, hp, hk⟩
    · have hthird : checkFails 3 w s := ⟨hop, h7⟩
      obtain rfl := hwsel.resolve_right (not_not_intro hthird)
      refine iff_of_true hthird ?_
      rw [Op.instr, hnone]
      split <;> exact List.mem_cons_self
    · cases hE : w.getLsbD 11 with
      | true =>
        have hbit : bits w 11 1 = 1 := (bits_explicit_eq_iff w true).2 hE
        rw [Op.instr, if_pos hE, hsome]
        interval_cases n <;> simp [checkFails, numberedChecks, hop, Op.byte, h7, hbit, hp, hk, regField_val,
          tuplePastEnd_eq_true, badWindow_eq_true, -List.any_eq_true, any_badBase_iff]
      | false =>
        have hbit : bits w 11 1 = 0 := (bits_explicit_eq_iff w false).2 hE
        rw [Op.instr, hE, if_neg Bool.false_ne_true, hsome]
        interval_cases n <;> simp [checkFails, numberedChecks, hop, Op.byte, h7, hbit, regField_val, badWindow_eq_true]

/-- While no check of R232 below n fails, none of the command's own checks below n does. -/
theorem not_mem_of_not_checkFails {w : Word} {op : Op} (hop : opcode w = op.byte.toNat)
    (hwf : (op.instr w).wf = true) {s : State} {n : Nat} (hn : ∀ m, 1 ≤ m → m ≤ 9 → m < n → ¬ checkFails m w s)
    {m : Nat} (hm : m < n) : (m, true) ∉ numberedChecks s (op.instr w) := by
  intro hmem
  obtain ⟨h2, h9⟩ := number_bounds hmem
  rcases h2.eq_or_lt with rfl | h3
  · exact two_not_mem_numberedChecks s hwf hmem
  · have hwsel : m = 3 ∨ ¬ checkFails 3 w s :=
      (Nat.eq_or_lt_of_le h3).imp Eq.symm fun hlt => hn 3 (by decide) (by decide) (hlt.trans hm)
    exact hn m (by omega) h9 hm ((checkFails_iff_mem hop s h3 h9 hwsel).2 hmem)

/-! ## The first failing check -/

theorem raises_of_firstError {i : Instr} {s : State} {e : ErrCode}
    (h : firstError (coded (numberedChecks s i)) = some e) : Raises i e s := by
  obtain ⟨f, hx, -⟩ := exec_eq_runCommand i s
  exact exec_raises hx h

/-- A command none of whose own checks fails completes. -/
theorem completes_of_no_check {i : Instr} {s : State} (h : ∀ n, (n, true) ∉ numberedChecks s i) :
    ∃ t, exec i s = .next t ∧ Completes (encode i) s t := by
  obtain ⟨f, hx, hq⟩ := exec_eq_runCommand i s
  exact ⟨_, exec_completes hx (firstError_coded_none h) hq⟩

/-- Two checks that are both the first to fail are one. -/
theorem first_failing_unique {w : Word} {s : State} {n k : Nat} (hn : 1 ≤ n) (hk : 1 ≤ k) (hfn : checkFails n w s)
    (hfk : checkFails k w s) (hn' : ∀ m, 1 ≤ m → m < n → ¬ checkFails m w s)
    (hk' : ∀ m, 1 ≤ m → m < k → ¬ checkFails m w s) : n = k :=
  le_antisymm (le_of_not_gt fun h => hn' k hk h hfk) (le_of_not_gt fun h => hk' n hn h hfn)

/-- Settles O8: checks 1 and 2 are the decoder's, and the others are the command's own in their order. -/
theorem firstFailingCheckGivesTheCode : Obligations.FirstFailingCheckGivesTheCode := by
  intro s w hb
  rcases decode_cases w with ⟨hnone, hd⟩ | ⟨op, hop, ⟨hm, hd⟩ | ⟨-, hd⟩⟩
  · have h1 : checkFails 1 w s := (checkFails_one_iff w s).2 hnone
    refine ⟨fun n hn _ hf hfirst => ?_, fun hpass => absurd h1 (hpass 1 (by decide) (by decide))⟩
    obtain rfl := first_failing_unique hn le_rfl hf h1 hfirst fun m hm hlt => by omega
    exact engineFails_of_decode hd s
  · have h1 : ¬ checkFails 1 w s := fun h => by cases ((checkFails_one_iff w s).1 h).symm.trans hop
    have h2 : ¬ checkFails 2 w s := fun h => (checkFails_two_iff w s).1 h _ hd
    have hopcode : opcode w = op.byte.toNat := (opcode_eq_iff w op).2 (Op.byte_of_ofByte hop).symm
    have hwf := wf_instr hm
    refine ⟨fun n hn h9 hf hfirst => engineFails_of_raises hd (raises_of_firstError ?_), fun hpass => ?_⟩
    · have h3 : 3 ≤ n := by
        by_contra hlt
        obtain rfl | rfl : n = 1 ∨ n = 2 := by omega
        · exact h1 hf
        · exact h2 hf
      have hwsel : n = 3 ∨ ¬ checkFails 3 w s :=
        (Nat.eq_or_lt_of_le h3).imp Eq.symm fun hlt => hfirst 3 (by decide) hlt
      exact firstError_coded_some (numberedChecks_sorted s _) ((checkFails_iff_mem hopcode s h3 h9 hwsel).1 hf)
        fun m hlt => not_mem_of_not_checkFails hopcode hwf (fun k hk _ => hfirst k hk) hlt
    · have hown (n : Nat) : (n, true) ∉ numberedChecks s (op.instr w) := fun hmem =>
        not_mem_of_not_checkFails hopcode hwf (n := 10) (fun k hk h9 _ => hpass k hk h9)
          (by have := number_bounds hmem; omega) hmem
      have hx := completes_of_no_check hown
      rwa [encode_of_decode hd, ← engineStep_of_decode hb hd] at hx
  · have h1 : ¬ checkFails 1 w s := fun h => by cases ((checkFails_one_iff w s).1 h).symm.trans hop
    have h2 : checkFails 2 w s := (checkFails_two_iff w s).2 fun i h => by cases hd.symm.trans h
    refine ⟨fun n hn _ hf hfirst => ?_, fun hpass => absurd h2 (hpass 2 (by decide) (by decide))⟩
    obtain rfl := first_failing_unique hn (by decide) hf h2 hfirst fun m hm hlt => by
      obtain rfl : m = 1 := by omega
      exact h1
    exact engineFails_of_decode hd s

end Sys2Proof.Machine
end

section
/-! What a command needs and what it can raise: the commands that need a configuration (70_reset_and_hazards.md R263)
and the table of errors by command (60_exceptions.md R247). -/

namespace Sys2Proof.Machine

open Sys2Proof.Spec Sys2Proof.Laws.OpcodeByte

/-! ## Without a configuration -/

/-- A command that needs a configuration checks for it first (R232, check 4). -/
theorem raises_notConfigured {s : State} {i : Instr} (hv : s.cfg.valid = false) (hi : needsConfiguration i = true) :
    Raises i .notConfigured s := by
  cases i with
  | lookup | fill | slide | fpget | fpput | cmp | pack2 => exact exec_raises rfl (firstError_notConfigured hv _)
  | _ => cases hi

theorem not_needsConfiguration_cases {i : Instr} (hi : needsConfiguration i = false) :
    i = .nop ∨ isArithmetic i = true ∨ isConfig i = true ∨ i = .fpclr := by
  cases i with
  | nop => exact .inl rfl
  | reduce | muladd | muladdr | pow | inv | rand => exact .inr (.inl rfl)
  | config | configRandom => exact .inr (.inr (.inl rfl))
  | fpclr => exact .inr (.inr (.inr rfl))
  | lookup | fill | slide | fpget | fpput | cmp | pack2 => cases hi

/-- Settles O58: the reset engine accepts the next word, and every command with a configuration need finds none. -/
theorem unconfiguredEngineRaisesNotConfigured : Obligations.UnconfiguredEngineRaisesNotConfigured := by
  refine ⟨rfl, rfl, rfl, fun s w rest hr ha => ?_, fun s i => raises_notConfigured, fun s t i hv h _ ht => ?_⟩
  · obtain ⟨-, -, -, -, -, -, -, -, hb, he, -⟩ := hr
    obtain ⟨-, -, accepts⟩ := cmdWriteOffersTheCommand s w rest ha
    obtain ⟨_, hstep, rfl, -⟩ := accepts hb he
    exact ⟨_, hstep, rfl⟩
  · refine not_needsConfiguration_cases (Bool.eq_false_iff.2 fun hi => ?_)
    obtain ⟨u, hu, herr, -⟩ := raises_notConfigured hv hi
    cases hu.symm.trans h
    cases herr.symm.trans ht

/-! ## No other error -/

theorem opOf_instr (op : Op) (w : Word) : opOf (op.instr w) = op := by
  cases op with
  | config => rw [Op.instr]; split <;> rfl
  | _ => rfl

/-- The code of each of a command's own checks stands in its opcode's row. -/
theorem checkCode_mem_errorsOf {s : State} {i : Instr} {n : Nat} {b : Bool} (h : (n, b) ∈ numberedChecks s i) :
    checkCode n ∈ errorsOf (opOf i).byte.toNat := by
  have hall : ∀ c ∈ numberedChecks s i, checkCode c.1 ∈ errorsOf (opOf i).byte.toNat := by
    cases i with
    | config rt rb wsel => cases wsel <;> simp [numberedChecks, checkCode, errorsOf, opOf, Op.byte]
    | configRandom rt wsel => cases wsel <;> simp [numberedChecks, checkCode, errorsOf, opOf, Op.byte]
    | _ => simp [numberedChecks, checkCode, errorsOf, opOf, Op.byte]
  exact hall _ h

/-- A command that ends in an error ends in the code of one of its own checks. -/
theorem errCode_of_exec {i : Instr} {s t : State} (h : exec i s = .next t) (hs : s.err = false) (ht : t.err = true) :
    ∃ n, (n, true) ∈ numberedChecks s i ∧ t.errCode = checkCode n := by
  obtain ⟨f, hx, hq⟩ := exec_eq_runCommand i s
  rcases runCommand_cases (encode i) (coded (numberedChecks s i)) f s with ⟨e, he, hr⟩ | ⟨-, hr⟩ <;>
    cases (hx.trans hr).symm.trans h
  · obtain ⟨⟨n, b⟩, hmem, heq⟩ := List.mem_map.1 (firstError_mem he)
    cases heq
    exact ⟨n, hmem, rfl⟩
  · obtain ⟨herr, -⟩ := hq
    cases hs.symm.trans (herr.symm.trans ht)

theorem errorsOf_of_not_assigned {op : Nat} (h : op ∉ assigned) : errorsOf op = [.illegalOpcode] := by
  simp only [assigned, List.mem_cons, List.not_mem_nil, or_false, not_or] at h
  simp [errorsOf, h]

theorem illegalField_mem_errorsOf {op : Nat} (h : op ∈ assigned) : .illegalField ∈ errorsOf op := by
  have hall : ∀ op ∈ assigned, .illegalField ∈ errorsOf op := by decide
  exact hall op h

theorem byte_mem_assigned (op : Op) : op.byte.toNat ∈ assigned := by cases op <;> decide

/-- The engine ends a word in an error of its opcode's row. -/
theorem errCode_mem_errorsOf {w : Word} {s t : State} (hb : s.busy = some w) (hs : s.err = false)
    (h : engineStep s = .next t) (ht : t.err = true) : t.errCode ∈ errorsOf (opcode w) := by
  rcases decode_cases w with ⟨hop, hd⟩ | ⟨op, hop, hd⟩
  · obtain ⟨u, hu, -, hcode, -⟩ := engineFails_of_decode hd s hb
    cases hu.symm.trans h
    rw [ofByte_eq_none_iff, ← opcode_eq_toNat] at hop
    rw [hcode, errorsOf_of_not_assigned hop]
    exact List.mem_cons_self
  rw [(opcode_eq_iff w op).2 (Op.byte_of_ofByte hop).symm]
  rcases hd with ⟨-, hd⟩ | ⟨-, hd⟩
  · rw [engineStep_of_decode hb hd] at h
    obtain ⟨n, hmem, hcode⟩ := errCode_of_exec h hs ht
    rw [hcode, ← opOf_instr op w]
    exact checkCode_mem_errorsOf hmem
  · obtain ⟨u, hu, -, hcode, -⟩ := engineFails_of_decode hd s hb
    cases hu.symm.trans h
    rw [hcode]
    exact illegalField_mem_errorsOf (byte_mem_assigned op)

/-! ## Each error of the row -/

/-- Some word with this opcode ends in this error in some state with ERR = 0. -/
def ErrorOccurs (op : Nat) (e : ErrCode) : Prop :=
  ∃ (w : Word) (s t : State), opcode w = op ∧ s.busy = some w ∧ s.err = false ∧ engineStep s = .next t ∧
    t.err = true ∧ t.errCode = e

theorem occurs_of_engineFails {w : Word} {e : ErrCode} {s : State} (hs : s.err = false)
    (h : EngineFails w e { s with busy := some w }) : ErrorOccurs (opcode w) e := by
  obtain ⟨t, ht, herr, hcode, -⟩ := h rfl
  exact ⟨w, { s with busy := some w }, t, rfl, rfl, hs, ht, herr, hcode⟩

/-- The first failing check of a well-formed command occurs as an error of its opcode. -/
theorem occurs_of_firstError {i : Instr} {s : State} {e : ErrCode} (hwf : i.wf = true) (hs : s.err = false)
    (h : firstError (coded (numberedChecks { s with busy := some (encode i) } i)) = some e) :
    ErrorOccurs (opcode (encode i)) e :=
  occurs_of_engineFails hs (engineFails_of_raises (decodeOfEncodeIsTheCommand i hwf) (raises_of_firstError h))

/-- A state configured for two channels in which no register and no fingerprint holds a field element. -/
def saturated : State :=
  { State.reset with
    x := Vector.replicate 16 (BitVec.allOnes 128)
    fp := Vector.replicate 4 (BitVec.allOnes 128)
    cfg := { Configuration.reset with valid := true, wsel := .w122 } }

/-- A word with this opcode and every other bit 1. -/
def allOnesWord (op : Nat) : Word := BitVec.ofNat 32 (op * 2 ^ 24 + (2 ^ 24 - 1))

theorem opcode_allOnesWord {op : Nat} (h : op < 256) : opcode (allOnesWord op) = op := by
  rw [opcode, bits, allOnesWord, BitVec.toNat_ofNat]
  omega

theorem operandRange_occurs {op : Nat} (h : op ∈ [0x01, 0x02, 0x03, 0x04, 0x05, 0x20, 0x21, 0x33, 0x34]) :
    ErrorOccurs op .operandRange := by
  have saturates {i : Instr} (hwf : i.wf = true)
      (h : firstError (coded (numberedChecks { saturated with busy := some (encode i) } i)) = some .operandRange) :
      ErrorOccurs (opcode (encode i)) .operandRange := occurs_of_firstError hwf rfl h
  simp only [List.mem_cons, List.not_mem_nil, or_false] at h
  rcases h with rfl | rfl | rfl | rfl | rfl | rfl | rfl | rfl | rfl
  · exact saturates (i := .reduce 0 0 .w61) rfl rfl
  · exact saturates (i := .muladd 0 0 0 0 .w61) rfl rfl
  · exact saturates (i := .muladdr 0 0 0 0 .w61) rfl rfl
  · exact saturates (i := .pow 0 0 0 .w61) rfl rfl
  · exact saturates (i := .inv 0 0 .w61) rfl rfl
  · exact saturates (i := .fill 0) rfl rfl
  · exact saturates (i := .slide 0 0) rfl rfl
  · exact saturates (i := .cmp 0 0 0) rfl rfl
  · exact saturates (i := .pack2 0) rfl rfl

theorem notConfigured_occurs {op : Nat} (h : op ∈ [0x11, 0x20, 0x21, 0x31, 0x32, 0x33, 0x34]) :
    ErrorOccurs op .notConfigured := by
  have unconfigured {i : Instr} (hwf : i.wf = true) (hi : needsConfiguration i = true) :
      ErrorOccurs (opcode (encode i)) .notConfigured :=
    occurs_of_engineFails (s := State.reset) rfl
      (engineFails_of_raises (decodeOfEncodeIsTheCommand i hwf) (raises_notConfigured rfl hi))
  simp only [List.mem_cons, List.not_mem_nil, or_false] at h
  rcases h with rfl | rfl | rfl | rfl | rfl | rfl | rfl
  · exact unconfigured (i := .lookup 0 0 0 0) rfl rfl
  · exact unconfigured (i := .fill 0) rfl rfl
  · exact unconfigured (i := .slide 0 0) rfl rfl
  · exact unconfigured (i := .fpget 0) rfl rfl
  · exact unconfigured (i := .fpput 0) rfl rfl
  · exact unconfigured (i := .cmp 0 0 0) rfl rfl
  · exact unconfigured (i := .pack2 0) rfl rfl

/-- The table of errors, by code. -/
theorem errorsOf_cases {op : Nat} {e : ErrCode} (h : e ∈ errorsOf op) :
    (e = .illegalOpcode ∧ op ∉ assigned) ∨ (e = .illegalField ∧ op ∈ assigned) ∨
    (e = .operandRange ∧ op ∈ [0x01, 0x02, 0x03, 0x04, 0x05, 0x20, 0x21, 0x33, 0x34]) ∨
    (e = .notConfigured ∧ op ∈ [0x11, 0x20, 0x21, 0x31, 0x32, 0x33, 0x34]) ∨
    (e = .badWidth ∧ op = 0x10) ∨ (e = .badWindow ∧ op = 0x10) ∨ (e = .badBase ∧ op = 0x10) ∨
    (e = .modeMismatch ∧ op = 0x34) := by
  by_cases ha : op ∈ assigned
  · right
    revert e; revert ha; revert op
    decide
  · rw [errorsOf_of_not_assigned ha] at h
    exact .inl ⟨List.mem_singleton.1 h, ha⟩

/-- Settles O9: an error comes from the decoder or from one of the command's own checks, and each of them can be the
first to fail. -/
theorem commandsRaiseExactlyTheErrorsOfTheirRow : Obligations.CommandsRaiseExactlyTheErrorsOfTheirRow := by
  intro op e hlt
  refine ⟨fun ⟨w, s, t, hop, hb, hs, h, ht, hcode⟩ => hop ▸ hcode ▸ errCode_mem_errorsOf hb hs h ht, fun h => ?_⟩
  show ErrorOccurs op e
  have hones := opcode_allOnesWord hlt
  rcases errorsOf_cases h with ⟨rfl, ha⟩ | ⟨rfl, ha⟩ | ⟨rfl, ha⟩ | ⟨rfl, ha⟩ | ⟨rfl, rfl⟩ | ⟨rfl, rfl⟩ | ⟨rfl, rfl⟩ |
    ⟨rfl, rfl⟩
  · rw [← hones]
    exact occurs_of_engineFails (s := State.reset) rfl (engineFails_of_not_assigned (hones.symm ▸ ha) _)
  · have hrows : ∀ op ∈ assigned, ∀ r ∈ rows, allOnesWord op &&& r.2.2.1 ≠ r.2.2.2 := by decide
    rw [← hones]
    exact occurs_of_engineFails (s := State.reset) rfl (engineFails_of_no_row (hones.symm ▸ ha) (hrows op ha) _)
  · exact operandRange_occurs ha
  · exact notConfigured_occurs ha
  · exact occurs_of_firstError (i := .config 0 0 none) (s := State.reset) rfl rfl rfl
  · exact occurs_of_firstError (i := .config 0 0 (some .w61)) (s := State.reset) rfl rfl rfl
  · exact occurs_of_firstError (i := .config 0 1 (some .w61)) (s := State.reset.setX 0 1) rfl rfl rfl
  · exact occurs_of_firstError (i := .pack2 0)
      (s := { State.reset with cfg := { Configuration.reset with valid := true } }) rfl rfl rfl

end Sys2Proof.Machine
end

section
/-! CRATE as the correctly rounded binary64 number (41_table.md R176): the significand is the integer nearest to the
scaled rate, ties to even, and every other binary64 number is either another integer in the same unit or smaller than
every candidate. -/

namespace Sys2Proof.Machine

open Sys2Proof.Spec

/-! ## The scaled quotient -/

theorem zpow_eq_div (k : ℤ) : (2 : ℚ) ^ k = 2 ^ k.toNat / 2 ^ (-k).toNat := by
  rcases le_total 0 k with h | h
  · rw [Int.toNat_of_nonpos (neg_nonpos.2 h), pow_zero, div_one, ← zpow_natCast, Int.toNat_of_nonneg h]
  · rw [Int.toNat_of_nonpos h, pow_zero, one_div, ← zpow_natCast, Int.toNat_of_nonneg (neg_nonneg.2 h), zpow_neg,
      inv_inv]

/-- n / d scaled by a power of 2 is the fraction the scaled quotient divides out. -/
theorem scaled_eq (n d : Nat) (k : ℤ) :
    (n / d : ℚ) * 2 ^ k = ((n * 2 ^ k.toNat : ℕ) : ℚ) / ((d * 2 ^ (-k).toNat : ℕ) : ℚ) := by
  rw [zpow_eq_div, div_mul_div_comm]
  push_cast
  rfl

theorem divisor_pos (n : Nat) {d : Nat} (hd : 0 < d) (k : ℤ) : 0 < (scaledQuotient n d k).divisor :=
  Nat.mul_pos hd (Nat.two_pow_pos _)

/-- The scaled fraction is its quotient and the remainder over the divisor. -/
theorem scaled_eq_quotient_add (n : Nat) {d : Nat} (hd : 0 < d) (k : ℤ) : (n / d : ℚ) * 2 ^ k
    = (scaledQuotient n d k).quotient + ((scaledQuotient n d k).remainder : ℚ) / (scaledQuotient n d k).divisor := by
  have hpos : ((scaledQuotient n d k).divisor : ℚ) ≠ 0 := Nat.cast_ne_zero.2 (divisor_pos n hd k).ne'
  have hdiv : ((n * 2 ^ k.toNat : ℕ) : ℚ) = (scaledQuotient n d k).divisor * (scaledQuotient n d k).quotient
      + (scaledQuotient n d k).remainder := by exact_mod_cast (Nat.div_add_mod _ _).symm
  rw [scaled_eq, hdiv, add_div]
  exact congrArg (· + _) (mul_div_cancel_left₀ _ hpos)

/-- The quotient is the floor of the scaled fraction. -/
theorem le_quotient_iff (n : Nat) {d : Nat} (hd : 0 < d) (k : ℤ) (c : Nat) :
    c ≤ (scaledQuotient n d k).quotient ↔ (c : ℚ) ≤ (n / d : ℚ) * 2 ^ k := by
  have hpos := divisor_pos n hd k
  rw [scaled_eq, le_div_iff₀ (Nat.cast_pos.2 hpos)]
  exact (Nat.le_div_iff_mul_le hpos).trans (by exact_mod_cast Iff.rfl)

/-- A quotient of numbers of known magnitude. -/
theorem div_bounds_of_log2 {n d : Nat} (hn : 0 < n) (hd : 0 < d) :
    (2 : ℚ) ^ ((n.log2 : ℤ) - d.log2 - 1) < n / d ∧ (n / d : ℚ) < 2 ^ ((n.log2 : ℤ) - d.log2 + 1) := by
  have h2 : (2 : ℚ) ≠ 0 := two_ne_zero
  have lower (m : Nat) (hm : 0 < m) : (2 : ℚ) ^ (m.log2 : ℤ) ≤ m := by
    exact_mod_cast Nat.log2_self_le hm.ne'
  have upper (m : Nat) : (m : ℚ) < 2 ^ ((m.log2 : ℤ) + 1) := by
    exact_mod_cast Nat.lt_log2_self (n := m)
  have hdpos : (0 : ℚ) < d := Nat.cast_pos.2 hd
  constructor
  · rw [lt_div_iff₀ hdpos]
    calc (2 : ℚ) ^ ((n.log2 : ℤ) - d.log2 - 1) * d
        < 2 ^ ((n.log2 : ℤ) - d.log2 - 1) * 2 ^ ((d.log2 : ℤ) + 1) :=
          mul_lt_mul_of_pos_left (upper d) (zpow_pos two_pos _)
      _ = 2 ^ (n.log2 : ℤ) := by rw [← zpow_add₀ h2]; congr 1; ring
      _ ≤ n := lower n hn
  · rw [div_lt_iff₀ hdpos]
    calc (n : ℚ) < 2 ^ ((n.log2 : ℤ) + 1) := upper n
      _ = 2 ^ ((n.log2 : ℤ) - d.log2 + 1) * 2 ^ (d.log2 : ℤ) := by rw [← zpow_add₀ h2]; congr 1; ring
      _ ≤ 2 ^ ((n.log2 : ℤ) - d.log2 + 1) * d := mul_le_mul_of_nonneg_left (lower d hd) (zpow_pos two_pos _).le

/-- The significand's shift brings the fraction between 2^52 and 2^53. -/
theorem significandShift_bounds {n d : Nat} (hn : 0 < n) (hd : 0 < d) :
    (2 : ℚ) ^ (52 : ℤ) ≤ (n / d : ℚ) * 2 ^ significandShift n d ∧
      (n / d : ℚ) * 2 ^ significandShift n d < 2 ^ (53 : ℤ) := by
  have h2 : (2 : ℚ) ≠ 0 := two_ne_zero
  obtain ⟨hlow, hhigh⟩ := div_bounds_of_log2 hn hd
  have hfloor := le_quotient_iff n hd (52 - (n.log2 : ℤ) + d.log2) (2 ^ 52)
  rw [Nat.cast_pow, Nat.cast_ofNat, ← zpow_natCast] at hfloor
  simp only [significandShift]
  split
  · next hlt =>
    have hlt' := lt_of_not_ge (mt hfloor.2 hlt.not_ge)
    rw [zpow_add₀ h2 _ 1, zpow_one, ← mul_assoc]
    constructor
    · calc (2 : ℚ) ^ (52 : ℤ)
          = 2 ^ ((n.log2 : ℤ) - d.log2 - 1) * 2 ^ (52 - (n.log2 : ℤ) + d.log2) * 2 := by
            rw [← zpow_add₀ h2, ← zpow_add_one₀ h2]; congr 1; ring
        _ ≤ _ := mul_le_mul_of_nonneg_right (mul_le_mul_of_nonneg_right hlow.le (zpow_pos two_pos _).le) two_pos.le
    · calc _ < (2 : ℚ) ^ ((52 : ℕ) : ℤ) * 2 := mul_lt_mul_of_pos_right hlt' two_pos
        _ = 2 ^ (53 : ℤ) := by norm_num
  · next hge =>
    refine ⟨hfloor.1 (le_of_not_gt hge), ?_⟩
    calc (n / d : ℚ) * 2 ^ (52 - (n.log2 : ℤ) + d.log2)
        < 2 ^ ((n.log2 : ℤ) - d.log2 + 1) * 2 ^ (52 - (n.log2 : ℤ) + d.log2) :=
          mul_lt_mul_of_pos_right hhigh (zpow_pos two_pos _)
      _ = 2 ^ (53 : ℤ) := by rw [← zpow_add₀ h2]; congr 1; ring

/-! ## The nearest integer -/

/-- m is the integer nearest to x, the even one of two. -/
def NearestEven (m : ℤ) (x : ℚ) : Prop := ∀ k : ℤ, |m - x| ≤ |k - x| ∧ (|m - x| = |k - x| → k ≠ m → Even m)

theorem nearestEven_floor {q : ℤ} {t : ℚ} (h0 : 0 ≤ t) (h1 : t ≤ 1 / 2) (htie : t = 1 / 2 → Even q) :
    NearestEven q (q + t) := by
  intro k
  have hq : |(q : ℚ) - (q + t)| = t := by rw [sub_add_cancel_left, abs_neg, abs_of_nonneg h0]
  rw [hq]
  rcases lt_trichotomy k q with hk | rfl | hk
  · have hk' : (k : ℚ) + 1 ≤ q := by exact_mod_cast hk
    have hd : |(k : ℚ) - (q + t)| = q + t - k := by rw [abs_sub_comm, abs_of_nonneg (by linarith)]
    rw [hd]
    exact ⟨by linarith, fun h => by linarith⟩
  · exact ⟨hq.ge, fun _ hne => absurd rfl hne⟩
  · have hk' : (q : ℚ) + 1 ≤ k := by exact_mod_cast hk
    have hd : |(k : ℚ) - (q + t)| = k - (q + t) := abs_of_nonneg (by linarith)
    rw [hd]
    exact ⟨by linarith, fun h _ => htie (by linarith)⟩

theorem nearestEven_ceil {q : ℤ} {t : ℚ} (h0 : 1 / 2 ≤ t) (h1 : t ≤ 1) (htie : t = 1 / 2 → Even (q + 1)) :
    NearestEven (q + 1) (q + t) := by
  intro k
  have hq : |((q + 1 : ℤ) : ℚ) - (q + t)| = 1 - t := by
    push_cast
    rw [add_sub_add_left_eq_sub, abs_of_nonneg (by linarith)]
  rw [hq]
  rcases lt_trichotomy k (q + 1) with hk | rfl | hk
  · have hk' : (k : ℚ) ≤ q := by exact_mod_cast Int.lt_add_one_iff.1 hk
    have hd : |(k : ℚ) - (q + t)| = q + t - k := by rw [abs_sub_comm, abs_of_nonneg (by linarith)]
    rw [hd]
    exact ⟨by linarith, fun h _ => htie (by linarith)⟩
  · exact ⟨hq.ge, fun _ hne => absurd rfl hne⟩
  · have hk' : (q : ℚ) + 1 + 1 ≤ k := by exact_mod_cast hk
    have hd : |(k : ℚ) - (q + t)| = k - (q + t) := abs_of_nonneg (by linarith)
    rw [hd]
    exact ⟨by linarith, fun h => by linarith⟩

/-- The model's rounding takes the nearest integer, ties to even. -/
theorem nearestEven_spec {q : ScaledQuotient} (hr : q.remainder < q.divisor) :
    NearestEven q.nearestEven (q.quotient + (q.remainder : ℚ) / q.divisor) := by
  have hpos : (0 : ℚ) < q.divisor := Nat.cast_pos.2 (by omega)
  have hlt : (q.remainder : ℚ) / q.divisor ≤ 1 := (div_le_one hpos).2 (by exact_mod_cast hr.le)
  have hhalf : 1 / 2 ≤ (q.remainder : ℚ) / q.divisor ↔ q.divisor ≤ 2 * q.remainder := by
    rw [div_le_div_iff₀ two_pos hpos, one_mul, mul_comm _ (2 : ℚ)]
    exact_mod_cast Iff.rfl
  have hhalf' : (q.remainder : ℚ) / q.divisor ≤ 1 / 2 ↔ 2 * q.remainder ≤ q.divisor := by
    rw [div_le_div_iff₀ hpos two_pos, one_mul, mul_comm _ (2 : ℚ)]
    exact_mod_cast Iff.rfl
  have htie (h : (q.remainder : ℚ) / q.divisor = 1 / 2) : 2 * q.remainder = q.divisor :=
    le_antisymm (hhalf'.1 h.le) (hhalf.1 h.ge)
  unfold ScaledQuotient.nearestEven
  split
  · next hup =>
    refine nearestEven_ceil (q := q.quotient) (hhalf.2 (by omega)) hlt fun h => ?_
    have := htie h
    exact_mod_cast Nat.even_iff.2 (by omega)
  · next hdown =>
    refine nearestEven_floor (q := q.quotient) (by positivity) (hhalf'.2 (by omega)) fun h => ?_
    have := htie h
    exact_mod_cast Nat.even_iff.2 (by omega)

/-! ## Binary64 numbers -/

/-- The unit in the last place of the normal numbers with exponent field E. -/
def ulp (E : Nat) : ℚ := 2 ^ E / 2 ^ 1075

theorem ulp_pos (E : Nat) : 0 < ulp E := by unfold ulp; positivity

/-- A binary64 number is a sign, a significand below 2^53 and a unit. -/
theorem binary64Value_cases (b : BitVec 64) :
    ∃ (σ : ℤ) (f e : Nat), (σ = 1 ∨ σ = -1) ∧ f < 2 ^ 53 ∧ binary64Value b = σ * f * ulp e := by
  have hf : b.toNat % 2 ^ 52 < 2 ^ 52 := Nat.mod_lt _ (by decide)
  have hsign : ∃ σ : ℤ, (σ = 1 ∨ σ = -1) ∧ (if b.getLsbD 63 then -1 else 1 : ℚ) = σ := by
    split
    · exact ⟨-1, .inr rfl, by norm_num⟩
    · exact ⟨1, .inl rfl, by norm_num⟩
  obtain ⟨σ, hσ, hs⟩ := hsign
  simp only [binary64Value, hs, ulp]
  split
  · refine ⟨σ, b.toNat % 2 ^ 52, 1, hσ, by omega, ?_⟩
    rw [show (2 : ℚ) ^ 1075 = 2 ^ 1 * 2 ^ 1074 from pow_add 2 1 1074, div_mul_cancel_left₀ (by norm_num),
      div_eq_mul_inv]
  · exact ⟨σ, _, _, hσ, (show 2 ^ 52 + b.toNat % 2 ^ 52 < 2 ^ 53 by omega), mul_div_assoc _ _ _⟩

/-- Beside the normal numbers with exponent field E a binary64 number is a whole multiple of their unit, or is less than
all of them. -/
theorem binary64Value_grid (b : BitVec 64) (E : Nat) :
    (∃ k : ℤ, binary64Value b = k * ulp E) ∨ binary64Value b < 2 ^ 52 * ulp E := by
  obtain ⟨σ, f, e, hσ, hf, hv⟩ := binary64Value_cases b
  rw [hv]
  rcases le_or_gt E e with hle | hlt
  · refine .inl ⟨σ * f * 2 ^ (e - E), ?_⟩
    have hunit : ulp e = 2 ^ (e - E) * ulp E := by
      rw [ulp, ulp, ← mul_div_assoc, ← pow_add, Nat.sub_add_cancel hle]
    rw [hunit]
    push_cast
    ring
  · right
    have hunit : 2 * ulp e ≤ ulp E := by
      rw [ulp, ulp, ← mul_div_assoc, ← pow_succ']
      exact div_le_div_of_nonneg_right (pow_le_pow_right₀ one_le_two hlt) (by positivity)
    have hsf : (σ : ℚ) * f ≤ f := by
      rcases hσ with rfl | rfl
      · rw [Int.cast_one, one_mul]
      · push_cast
        have : (0 : ℚ) ≤ f := f.cast_nonneg
        linarith
    have hf' : (f : ℚ) < 2 ^ 53 := by exact_mod_cast hf
    calc (σ : ℚ) * f * ulp e ≤ f * ulp e := mul_le_mul_of_nonneg_right hsf (ulp_pos e).le
      _ < 2 ^ 53 * ulp e := mul_lt_mul_of_pos_right hf' (ulp_pos e)
      _ = 2 ^ 52 * (2 * ulp e) := by ring
      _ ≤ 2 ^ 52 * ulp E := mul_le_mul_of_nonneg_left hunit (by positivity)

/-- The encoding of significand m in unit E: exponent and fraction fields added, a carry going into the exponent. -/
def binary64Encoding (E m : Nat) : BitVec 64 := BitVec.ofNat 64 (E * 2 ^ 52 + (m - 2 ^ 52))

/-- A significand of 53 bits, or 2^53, is encoded as the normal number it stands for. -/
theorem binary64Encoding_spec {E m : Nat} (hE : 1 ≤ E) (hE' : E ≤ 2045) (hm : 2 ^ 52 ≤ m) (hm' : m ≤ 2 ^ 53) :
    binary64Value (binary64Encoding E m) = m * ulp E ∧ finiteBinary64 (binary64Encoding E m) ∧
      1 ≤ (binary64Encoding E m).toNat / 2 ^ 52 % 2 ^ 11 ∧ (binary64Encoding E m).getLsbD 63 = false ∧
      (Even m → (binary64Encoding E m).getLsbD 0 = false) := by
  have hn : (binary64Encoding E m).toNat = E * 2 ^ 52 + (m - 2 ^ 52) := by
    rw [binary64Encoding, BitVec.toNat_ofNat, Nat.mod_eq_of_lt (by omega)]
  have hsign : (binary64Encoding E m).getLsbD 63 = false := by
    rw [BitVec.getLsbD, hn]
    exact Nat.testBit_lt_two_pow (by omega)
  have hlow : Even m → (binary64Encoding E m).getLsbD 0 = false := fun he => by
    rw [BitVec.getLsbD, hn, Nat.testBit_eq_decide_div_mod_eq]
    have := Nat.even_iff.1 he
    exact decide_eq_false (by omega)
  refine ⟨?_, ?_, ?_, hsign, hlow⟩
  · rcases hm'.eq_or_lt with rfl | hlt
    · have he : (binary64Encoding E (2 ^ 53)).toNat / 2 ^ 52 % 2 ^ 11 = E + 1 := by omega
      have hf : (binary64Encoding E (2 ^ 53)).toNat % 2 ^ 52 = 0 := by omega
      simp only [binary64Value, hsign, he, hf, ulp, if_neg (Nat.succ_ne_zero E), Bool.false_eq_true, if_false]
      generalize (2 : ℚ) ^ 1075 = unit
      push_cast
      ring
    · have he : (binary64Encoding E m).toNat / 2 ^ 52 % 2 ^ 11 = E := by omega
      have hf : 2 ^ 52 + (binary64Encoding E m).toNat % 2 ^ 52 = m := by omega
      simp only [binary64Value, hsign, he, hf, ulp, if_neg (show E ≠ 0 by omega), Bool.false_eq_true, if_false]
      generalize (2 : ℚ) ^ 1075 = unit
      ring
  · unfold finiteBinary64
    omega
  · omega

/-! ## The rounding -/

/-- The binary64 number an encoding of the nearest significand stands for is the nearest one, ties to even. -/
theorem binary64Encoding_nearest {E m : Nat} {x : ℚ} (hE : 1 ≤ E) (hE' : E ≤ 2045) (hm : 2 ^ 52 ≤ m) (hm' : m ≤ 2 ^ 53)
    (hx : 2 ^ 52 ≤ x) (hnear : NearestEven m x) (b : BitVec 64) :
    |binary64Value (binary64Encoding E m) - x * ulp E| ≤ |binary64Value b - x * ulp E| ∧
      (|binary64Value (binary64Encoding E m) - x * ulp E| = |binary64Value b - x * ulp E| →
        binary64Value b ≠ binary64Value (binary64Encoding E m) → (binary64Encoding E m).getLsbD 0 = false) := by
  have hu := ulp_pos E
  obtain ⟨hv, -, -, -, hlow⟩ := binary64Encoding_spec hE hE' hm hm'
  have scale (y : ℚ) : |y * ulp E - x * ulp E| = |y - x| * ulp E := by rw [← sub_mul, abs_mul, abs_of_pos hu]
  rw [hv, scale]
  rcases binary64Value_grid b E with ⟨k, hk⟩ | hlt
  · rw [hk, scale]
    obtain ⟨hle, htie⟩ := hnear k
    refine ⟨mul_le_mul_of_nonneg_right hle hu.le, fun heq hne => hlow ?_⟩
    refine (Int.even_coe_nat m).1 (htie (mul_right_cancel₀ hu.ne' heq) fun hkm => hne ?_)
    rw [hkm, Int.cast_natCast]
  · obtain ⟨hle, -⟩ := hnear (2 ^ 52)
    have hfar : |(((2 ^ 52 : ℤ)) : ℚ) - x| = x - 2 ^ 52 := by
      rw [Int.cast_pow, Int.cast_ofNat, abs_sub_comm, abs_of_nonneg (sub_nonneg.2 hx)]
    have hlower : 2 ^ 52 * ulp E ≤ x * ulp E := mul_le_mul_of_nonneg_right hx hu.le
    have hstrict : |(m : ℚ) - x| * ulp E < |binary64Value b - x * ulp E| := by
      calc |(m : ℚ) - x| * ulp E ≤ (x - 2 ^ 52) * ulp E := mul_le_mul_of_nonneg_right (hle.trans hfar.le) hu.le
        _ = x * ulp E - 2 ^ 52 * ulp E := sub_mul _ _ _
        _ < x * ulp E - binary64Value b := sub_lt_sub_left hlt _
        _ = |binary64Value b - x * ulp E| := by rw [abs_sub_comm, abs_of_nonneg (by linarith)]
    exact ⟨hstrict.le, fun heq => absurd heq hstrict.ne⟩

/-- Scaled by the significand's shift, the unit is that of the encoding. -/
theorem zpow_mul_ulp {k : ℤ} {E : Nat} (h : (E : ℤ) = 1075 - k) : (2 : ℚ) ^ k * ulp E = 1 := by
  have h2 : (2 : ℚ) ≠ 0 := two_ne_zero
  rw [ulp, ← zpow_natCast, ← zpow_natCast, ← zpow_sub₀ h2, ← zpow_add₀ h2, h]
  simp

theorem nearestEven_cases (q : ScaledQuotient) : q.nearestEven = q.quotient + 1 ∨ q.nearestEven = q.quotient := by
  unfold ScaledQuotient.nearestEven
  split
  · exact .inl rfl
  · exact .inr rfl

/-- The shift of a fraction between 2^-245 and 2^13 leaves a normal exponent. -/
theorem significandShift_range {n d : Nat} (hn : 0 < n) (hd : 0 < d) (hlow : 1 / 2 ^ 245 ≤ (n / d : ℚ))
    (hhigh : (n / d : ℚ) ≤ 2 ^ 13) : 39 ≤ significandShift n d ∧ significandShift n d ≤ 298 := by
  have h2 : (2 : ℚ) ≠ 0 := two_ne_zero
  obtain ⟨h52, h53⟩ := significandShift_bounds hn hd
  have hpos : (0 : ℚ) < 2 ^ significandShift n d := zpow_pos two_pos _
  rw [show (1 / 2 ^ 245 : ℚ) = 2 ^ (-245 : ℤ) by rw [zpow_neg, one_div]; rfl] at hlow
  rw [← zpow_natCast] at hhigh
  have hup := (mul_le_mul_of_nonneg_right hlow hpos.le).trans_lt h53
  have hdown := h52.trans (mul_le_mul_of_nonneg_right hhigh hpos.le)
  rw [← zpow_add₀ h2, zpow_lt_zpow_iff_right₀ one_lt_two] at hup
  rw [← zpow_add₀ h2, zpow_le_zpow_iff_right₀ one_lt_two] at hdown
  omega

/-- Of a fraction between 2^-245 and 2^13 the model's encoding is that of the nearest significand in a normal unit. -/
theorem nearestBinary64_eq_binary64Encoding {n d : Nat} (hn : 0 < n) (hd : 0 < d) (hlow : 1 / 2 ^ 245 ≤ (n / d : ℚ))
    (hhigh : (n / d : ℚ) ≤ 2 ^ 13) :
    ∃ (E m : Nat) (x : ℚ), nearestBinary64 n d = binary64Encoding E m ∧ 1 ≤ E ∧ E ≤ 2045 ∧ 2 ^ 52 ≤ m ∧ m ≤ 2 ^ 53 ∧
      2 ^ 52 ≤ x ∧ NearestEven m x ∧ (n / d : ℚ) = x * ulp E := by
  obtain ⟨h39, h298⟩ := significandShift_range hn hd hlow hhigh
  obtain ⟨h52, h53⟩ := significandShift_bounds hn hd
  have hquot := (le_quotient_iff n hd (significandShift n d) (2 ^ 52)).2 (by exact_mod_cast h52)
  have hquot' : (scaledQuotient n d (significandShift n d)).quotient < 2 ^ 53 :=
    lt_of_not_ge (mt (le_quotient_iff n hd (significandShift n d) (2 ^ 53)).1 (not_le.2 (by exact_mod_cast h53)))
  have hm := nearestEven_cases (scaledQuotient n d (significandShift n d))
  refine ⟨(1023 + 52 - significandShift n d).toNat, _, (n / d : ℚ) * 2 ^ significandShift n d, if_neg hn.ne',
    by omega, by omega, by omega, by omega, by exact_mod_cast h52, ?_, ?_⟩
  · rw [scaled_eq_quotient_add n hd]
    exact nearestEven_spec (Nat.mod_lt _ (divisor_pos n hd _))
  · rw [mul_assoc, zpow_mul_ulp (by omega), mul_one]

/-! ## The collision rate -/

theorem collisionRate_eq_div (s : State) :
    collisionRate s = (((s.cfg.tau.toNat - 1) ^ s.channels : ℕ) : ℚ) / ((s.modulus ^ s.channels : ℕ) : ℚ) := by
  rw [collisionRate, div_pow]
  push_cast
  rfl

/-- The rate of every configuration with a window of two bytes or more. -/
theorem collisionRate_bounds {s : State} (ht : 2 ≤ s.cfg.tau.toNat) :
    1 / 2 ^ 245 ≤ collisionRate s ∧ collisionRate s ≤ 2 ^ 13 := by
  have hpos : (0 : ℚ) < s.modulus := Nat.cast_pos.2 (modulus_pos s)
  have hlow : (1 / s.modulus : ℚ) ^ s.channels ≤ collisionRate s :=
    pow_le_pow_left₀ (by positivity) (div_le_div_of_nonneg_right (by exact_mod_cast Nat.le_sub_one_of_lt ht) hpos.le) _
  have hhigh : collisionRate s ≤ (2 ^ 64 / s.modulus : ℚ) ^ s.channels := by
    have : s.cfg.tau.toNat - 1 ≤ 2 ^ 64 := by have := s.cfg.tau.isLt; omega
    exact pow_le_pow_left₀ (by positivity) (div_le_div_of_nonneg_right (by exact_mod_cast this) hpos.le) _
  have hsizes : (1 / 2 ^ 245 : ℚ) ≤ (1 / s.modulus) ^ s.channels ∧
      (2 ^ 64 / s.modulus : ℚ) ^ s.channels ≤ 2 ^ 13 := by
    unfold State.modulus State.channels
    cases s.cfg.wsel <;>
      norm_num [WSel.modulus, WSel.width, WSel.channels, Width.modulus, Width.bits]
  exact ⟨hsizes.1.trans hlow, hhigh.trans hsizes.2⟩

/-- With a window of one byte the rate is 0, and so is its encoding. -/
theorem crate_of_tau_one {s : State} (hv : s.cfg.valid = true) (ht : s.cfg.tau.toNat = 1) :
    s.crate = 0 ∧ collisionRate s = 0 := by
  have hk : s.channels ≠ 0 := Nat.one_le_iff_ne_zero.1 (channels_pos s)
  constructor
  · rw [State.crate, if_pos hv, ht, Nat.sub_self, zero_pow hk, nearestBinary64, if_pos rfl]
  · rw [collisionRate, ht, Nat.sub_self, Nat.cast_zero, zero_div, zero_pow hk]

theorem binary64Value_zero : binary64Value 0 = 0 := by
  simp [binary64Value]

/-- Settles O44: a rate of 0 is encoded as 0, and any other lies where the encoding is of the nearest significand. -/
theorem crateIsTheNearestBinary64 : Obligations.CrateIsTheNearestBinary64 := by
  intro s
  refine ⟨crate_of_not_valid, fun hi hv => ?_⟩
  obtain ⟨-, hpos, -⟩ := configured_of_inv hi hv
  rcases hpos.eq_or_lt with h1 | h2
  · obtain ⟨hc, hrate⟩ := crate_of_tau_one hv h1.symm
    rw [hc, hrate, binary64Value_zero, sub_zero, abs_zero]
    have hfinite : finiteBinary64 0 := by unfold finiteBinary64; decide
    exact ⟨hfinite, fun _ => rfl, fun hne => absurd h1.symm hne, fun b _ => ⟨abs_nonneg _, fun _ _ => rfl⟩⟩
  · obtain ⟨hlow, hhigh⟩ := collisionRate_bounds h2
    have hfrac := collisionRate_eq_div s
    obtain ⟨E, m, x, hcode, hE, hE', hm, hm', hx, hnear, hval⟩ := nearestBinary64_eq_binary64Encoding
      (Nat.pow_pos (n := s.channels) (Nat.sub_pos_of_lt h2)) (Nat.pow_pos (n := s.channels) (modulus_pos s))
      (hfrac ▸ hlow) (hfrac ▸ hhigh)
    have hcrate : s.crate = binary64Encoding E m := by rw [State.crate, if_pos hv, hcode]
    obtain ⟨-, hfinite, hnormal, hsign, -⟩ := binary64Encoding_spec hE hE' hm hm'
    rw [hcrate]
    refine ⟨hfinite, fun h1 => absurd h1 h2.ne', fun _ => ⟨hsign, hnormal, hlow, hhigh⟩, fun b _ => ?_⟩
    rw [hfrac, hval]
    exact binary64Encoding_nearest hE hE' hm hm' hx hnear b

end Sys2Proof.Machine
end
